-- ==== Sys2Proof/Word.lean ====
section
/-! DEFINITION. The word types of RSACORE (00_scope.md R6, R7). -/
namespace Sys2Proof

/-- A u32: every register, operand, result and entropy word (R6 `W = 32`, `ENT_W = 32`). -/
abbrev Word := BitVec 32

/-- A u64: the base of `mod_pow` (R6 `BASE_W = 64`). -/
abbrev DWord := BitVec 64

/-- A register index of the window, the port `h_idx` (R44, R60: 4 bits). -/
abbrev RegIdx := BitVec 4

/-- The u32 of a natural number, its low 32 bits (R7). -/
abbrev word (n : Nat) : Word := BitVec.ofNat 32 n

end Sys2Proof
end

