-- ==== Sys2Proof/Machine/Environment.lean ====
section
/-! DEFINITION. What the environment does to the core (00_scope.md R10): the host's transactions, the reset input, the
entropy pins, and a never-ending feed of any of them as plain data. -/
namespace Sys2Proof.Machine

/-- The entropy port's inputs at one handshake (10_state.md R44, 20_memory.md R68). -/
structure EntPins where
  /-- `ent_fail` -/
  fail : Bool
  /-- `ent_valid` -/
  valid : Bool
  /-- `ent_data` -/
  data : Word
  deriving DecidableEq, Repr, Inhabited

/-- A host transaction on the register window (20_memory.md R61, R62). -/
inductive HostTxn where
  | read (idx : RegIdx)
  | write (idx : RegIdx) (v : Word)
  deriving DecidableEq, Repr, Inhabited

/-- Whose turn it is to step (00_scope.md R10, 20_memory.md R70; log 2). -/
inductive Turn where
  /-- `rst = 1` (R230), with the host transaction presented on that edge, which is ignored (R231). -/
  | reset (ignored : Option HostTxn)
  | host (t : HostTxn)
  | core
  deriving DecidableEq, Repr, Inhabited

/-- How a feed goes on for ever: a list over and over (the empty one: nothing more), or the free feed of the
environment, of which nothing is known (`Config.freePins`, `Config.freeTurn`), from its entry `k`. -/
inductive Tail (α : Type) where
  | again (xs : List α)
  | free (k : Nat)
  deriving DecidableEq, Repr

/-- What the environment does from here on: first `ahead`, one entry at a time, then `rest` (log 2, log 3). -/
structure Feed (α : Type) where
  ahead : List α
  rest : Tail α
  deriving DecidableEq, Repr

/-- The entry whose turn it is; `idle` when there is nothing more, `source` gives the free feed. -/
def Feed.head {α : Type} (idle : α) (source : Nat → α) (f : Feed α) : α :=
  match f.ahead, f.rest with
  | x :: _, _ => x
  | [], .again (x :: _) => x
  | [], .again [] => idle
  | [], .free k => source k

/-- The feed with that entry used. -/
def Feed.after {α : Type} (f : Feed α) : Feed α :=
  match f.ahead, f.rest with
  | _ :: xs, r => ⟨xs, r⟩
  | [], .again (x :: xs) => ⟨xs, .again (x :: xs)⟩
  | [], .again [] => ⟨[], .again []⟩
  | [], .free k => ⟨[], .free (k + 1)⟩

/-- The feed with `n` entries used. -/
def Feed.afterMany {α : Type} : Nat → Feed α → Feed α
  | 0, f => f
  | n + 1, f => Feed.afterMany n f.after

/-- The feed with `x` put before everything. -/
def Feed.push {α : Type} (x : α) (f : Feed α) : Feed α := ⟨x :: f.ahead, f.rest⟩

/-- The feed in which nothing ever comes. -/
def Feed.nothing {α : Type} : Feed α := ⟨[], .again []⟩

/-- The free feed of the environment from its first entry. -/
def Feed.anything {α : Type} : Feed α := ⟨[], .free 0⟩

/-- What the entropy source presents at the coming handshakes (20_memory.md R69; log 3). -/
abbrev EntropyPort := Feed EntPins

/-- The agents' turns to come (20_memory.md R70; log 2). -/
abbrev Schedule := Feed Turn

end Sys2Proof.Machine
end

