-- ==== Sys2Proof/Config.lean ====
section
/-! DEFINITION. The implementation parameters of RSACORE (00_scope.md R6), and the free inputs of the environment
(00_scope.md R10, 93_implementation_defined.md Part 3), which have no body. The spec leaves no value of the core
itself unspecified (10_state.md R42). -/
namespace Sys2Proof.Config

/-- `MAX_UINT = 2^ENT_W − 1` (R6). -/
def maxUint : Nat := 0xFFFFFFFF

/-- `MR_ROUNDS`, Miller–Rabin rounds (R6). -/
def mrRounds : Nat := 10

/-- `PRIME_ATTEMPTS`, candidates one `get_prime` call tries (R6). -/
def primeAttempts : Nat := 400

/-- `2^(PRIME_N_BITS − 1)`, the lower end of the candidate interval (R6, R126). -/
def primeLow : Nat := 128

/-- `2^PRIME_N_BITS`, the exclusive upper end of the candidate interval (R6, R126). -/
def primeHigh : Nat := 256

/-- `TABLE_LEN`, entries of the small-prime table (R6). -/
def tableLen : Nat := 167

/-- The entropy source's answers under no law (20_memory.md R69, W1): the pins at handshake `k` of the free
stream. A free value (log 3). -/
opaque freePins : Nat → Machine.EntPins

/-- The order of the agents' steps, the host's transactions and the resets under no law (W2, W3, W4): turn `k` of
the free schedule. A free value (log 2). -/
opaque freeTurn : Nat → Machine.Turn

end Sys2Proof.Config
end

