-- ==== Sys2Proof/Syntax.lean ====
section
/-! DEFINITION. The twelve commands of RSACORE: one constructor for each row of spec/opcode_table.json
(30_encoding.md R82). A command word carries no operand (R81), so no constructor has an argument. -/
namespace Sys2Proof

/-- The command set (30_encoding.md R82). -/
inductive Instr where
  | keygen | encrypt | decrypt | modpow | gcd | modinv
  | isprime | sieve | mrtest | getprime | uniform | range
  deriving DecidableEq, Repr

/-- All twelve, in the order of the opcode map (R82). -/
def Instr.all : List Instr :=
  [.keygen, .encrypt, .decrypt, .modpow, .gcd, .modinv,
   .isprime, .sieve, .mrtest, .getprime, .uniform, .range]

end Sys2Proof
end

