-- ==== Sys2Proof/Decode.lean ====
section
/-! DEFINITION. The decoder of command words and, after it, the encoder (30_encoding.md R80, R82, R84).
Decoding is total on every 32-bit word and rejects by name. -/
namespace Sys2Proof

/-- Why a word is no command (R84). -/
inductive DecodeError where
  /-- Bits 31:8 are not all 0. -/
  | zeroField
  /-- Bits 31:8 are 0 and bits 7:0 are 0x00 or 0x0D to 0xFF. -/
  | opcode
  deriving DecidableEq, Repr

/-- The field `zero`, bits 31:8 (R80). -/
def zeroField (w : Word) : BitVec 24 := w.extractLsb' 8 24

/-- The field `opcode`, bits 7:0 (R80). -/
def opcodeField (w : Word) : BitVec 8 := w.extractLsb' 0 8

/-- The opcode map of R82, read from opcode to command. -/
def decodeOpcode (op : Nat) : Except DecodeError Instr :=
  match op with
  | 0x01 => .ok .keygen
  | 0x02 => .ok .encrypt
  | 0x03 => .ok .decrypt
  | 0x04 => .ok .modpow
  | 0x05 => .ok .gcd
  | 0x06 => .ok .modinv
  | 0x07 => .ok .isprime
  | 0x08 => .ok .sieve
  | 0x09 => .ok .mrtest
  | 0x0A => .ok .getprime
  | 0x0B => .ok .uniform
  | 0x0C => .ok .range
  | _ => .error .opcode

/-- Decoding (R80): "A decoder needs only `word[7:0]` and the test `word[31:8] = 0`". -/
def decode (w : Word) : Except DecodeError Instr :=
  if zeroField w = 0#24 then decodeOpcode (opcodeField w).toNat else .error .zeroField

/-- The decoder on a row of spec/opcode_table.json: one 32-bit word, bits above `nbits` being 0. -/
def decodeTableWord (nbits w : Nat) : Option Instr :=
  (decode (word (w % 2 ^ nbits))).toOption

/-- The opcode of each command (R82). -/
def opcode : Instr → BitVec 8
  | .keygen => 0x01#8
  | .encrypt => 0x02#8
  | .decrypt => 0x03#8
  | .modpow => 0x04#8
  | .gcd => 0x05#8
  | .modinv => 0x06#8
  | .isprime => 0x07#8
  | .sieve => 0x08#8
  | .mrtest => 0x09#8
  | .getprime => 0x0A#8
  | .uniform => 0x0B#8
  | .range => 0x0C#8

/-- The command word (R80): 24 zero bits above the opcode. -/
def encode (i : Instr) : Word := 0#24 ++ opcode i

end Sys2Proof
end

