-- ==== Sys2Proof/Machine/State.lean ====
section
/-! DEFINITION. The state of RSACORE as plain data (10_state.md R20), and its reset value (R42).
INVENTORY.md lists every field with the rule that names it. -/
namespace Sys2Proof.Machine

/-- The five error kinds (60_exceptions.md R206). -/
inductive ErrKind where
  /-- Code 1: one `get_prime` call rejected 400 candidates (R207). -/
  | primeExhausted
  /-- Code 2: MODINV with `gcd(a, b) ≠ 1` (R208). -/
  | inverseUndefined
  /-- Code 3: an operand that would divide by zero or sample an empty interval (R203). -/
  | operandFault
  /-- Code 4: an accepted word that is no command (R202). -/
  | illegalCommand
  /-- Code 5: `ent_fail` during a `Draw()` (R210). -/
  | entropyUnavailable
  deriving DecidableEq, Repr

/-- The fields of `STATUS` (10_state.md R30). `err = none` is code 0, `NONE`; bits 31:8 hold nothing. -/
structure Status where
  /-- A command is in flight (R31). -/
  busy : Bool
  /-- A command has completed since the last acknowledge (R32). -/
  done : Bool
  /-- The entropy source failed (R33). -/
  fatal : Bool
  /-- A host write was ignored because of BUSY or FATAL (R34). -/
  ovr : Bool
  /-- The error of the last completed command (R35). -/
  err : Option ErrKind
  deriving DecidableEq, Repr

/-- The Keypair registers `KP_E`, `KP_D`, `KP_N`, `KP_P`, `KP_Q` (10_state.md R26, 43_keygen.md R170). -/
structure Keypair where
  /-- public_exponent -/
  e : Word
  /-- private_exponent -/
  d : Word
  /-- modulus -/
  n : Word
  p : Word
  q : Word
  deriving DecidableEq, Repr

/-- Where in its pseudocode a command stands when it is inside a `Draw()`, with the values that live
across the draw (10_state.md R39; log 6). -/
inductive Point where
  /-- UNIFORM, inside `uniform(max)` (R103). -/
  | uniform (max : Word)
  /-- RANGE, inside `range(a, b)` (R104). -/
  | range (a b : Word)
  /-- MRTEST or ISPRIME, drawing the base of round `round` of `miller_rabin(n)`, `n − 1 = 2^s · d` (R124). -/
  | millerRabin (n : Word) (s : Nat) (d : Word) (round : Nat)
  /-- GETPRIME, drawing candidate number `attempt` (R126). -/
  | getPrime (attempt : Nat)
  /-- KEYGEN step 1, drawing candidate number `attempt` for `p` (R171). -/
  | keygenP (attempt : Nat)
  /-- KEYGEN step 2, drawing candidate number `attempt` of one `get_prime` call for `q` (R171). -/
  | keygenQ (p : Word) (attempt : Nat)
  /-- KEYGEN step 5, drawing an exponent candidate (R171). -/
  | keygenE (p q : Word)
  deriving DecidableEq, Repr

/-- How a command's pseudocode ends (60_exceptions.md R204, R205). -/
inductive Result where
  /-- A value for `RES`. -/
  | res (v : Word)
  /-- The five values of KEYGEN. -/
  | keypair (k : Keypair)
  /-- `raise E`. -/
  | raise (e : ErrKind)
  deriving DecidableEq, Repr

/-- How far a command has come: inside a `Draw()`, or at its end with the completion still to come. -/
inductive Progress where
  | draw (pt : Point)
  | finished (r : Result)
  deriving DecidableEq, Repr

/-- The whole state (10_state.md R20), the read-data port, and the environment's inputs. -/
structure State where
  /-- `CMD`, the last accepted command word (R28). -/
  cmd : Word
  /-- `STATUS` (R30). -/
  status : Status
  /-- `CTRL.IE` (R37). -/
  ie : Bool
  /-- `OPA_LO` (R22). -/
  opaLo : Word
  /-- `OPA_HI` (R22). -/
  opaHi : Word
  /-- `OPB` (R22). -/
  opb : Word
  /-- `OPC` (R22). -/
  opc : Word
  /-- `RES` (R25). -/
  res : Word
  /-- `KP_E`, `KP_D`, `KP_N`, `KP_P`, `KP_Q` (R26). -/
  kp : Keypair
  /-- The working state of the command in flight (R39). `none`: empty, no command in flight or one just
  accepted that has drawn nothing yet. -/
  work : Option Progress
  /-- The port `h_rdata` at the latest step: `none` where that step makes it not valid (R44; log 1). -/
  hRdata : Option Word
  /-- The agents' turns to come (R70). The model's own field, an input of the environment (log 2). -/
  turns : Schedule
  /-- The entropy source (R68, R69). The model's own field, an input of the environment (log 3). -/
  entropy : EntropyPort
  deriving DecidableEq, Repr

/-- What stops the machine: nothing. Every error of RSACORE is an error completion, after which the
machine goes on (60_exceptions.md R205, R216), and a command that never completes keeps BUSY = 1 while
host transactions still work (93 U11). -/
inductive Fault where
  deriving DecidableEq, Repr

/-- Why a step is refused. -/
inductive Refusal where
  /-- Raised by an arm of `exec` for an instruction with no meaning; no arm is left that raises it (safe). -/
  | notModelled (mnemonic : String)
  deriving DecidableEq, Repr

/-- The Keypair registers all 0, as reset and an error of KEYGEN leave them (R42, R205). -/
def Keypair.zero : Keypair := ⟨0#32, 0#32, 0#32, 0#32, 0#32⟩

/-- The reset state (10_state.md R42, 70_reset_and_hazards.md R231): every register 0, working state
empty, `h_rdata` 0. The environment's inputs are free: any turns, any entropy (DESIGN CHOICE, log 2 and log 3). -/
def State.reset : State where
  cmd := 0#32
  status := ⟨false, false, false, false, none⟩
  ie := false
  opaLo := 0#32
  opaHi := 0#32
  opb := 0#32
  opc := 0#32
  res := 0#32
  kp := .zero
  work := none
  hRdata := some 0#32
  turns := .anything
  entropy := .anything

end Sys2Proof.Machine
end

