-- ==== Sys2Proof/Machine/ModArith.lean ====
section
/-! DEFINITION. Modular Arithmetic: `mod_pow`, `gcd`, `modular_inverse` (42_modarith.md R150, R152, R154).
Intermediates are exact naturals and integers, narrowed once at the end; R156 says every width of the
spec holds the exact value (log 8). Each loop counts down a bound that its own test always beats. -/
namespace Sys2Proof.Machine

/-- The loop of `mod_pow` (R150), bit 0 of the exponent first; at most 32 iterations for a u32. -/
def modPowLoop (m : Nat) : Nat → Nat → Nat → Nat → Nat
  | 0, acc, _, _ => acc
  | k + 1, acc, b, e =>
    if e = 0 then acc
    else modPowLoop m k (if e % 2 = 1 then acc * b % m else acc) (b * b % m) (e / 2)

/-- `mod_pow(base, exponent, modulus)` for `modulus ≥ 1` (R150). -/
def modPow (base : DWord) (exponent modulus : Word) : Word :=
  if modulus = 1#32 then 0#32
  else word (modPowLoop modulus.toNat 32 1 (base.toNat % modulus.toNat) exponent.toNat)

/-- The Euclidean loop (R152). -/
def gcdLoop : Nat → Nat → Nat → Nat
  | 0, a, _ => a
  | k + 1, a, b => if b = 0 then a else gcdLoop k b (a % b)

/-- `gcd(a, b)` (R152). -/
def gcd (a b : Word) : Word := word (gcdLoop (b.toNat + 1) a.toNat b.toNat)

/-- The extended Euclidean loop (R154), from `(old_r, r)` and `(old_s, s)` to the last `(old_r, old_s)`. -/
def inverseLoop : Nat → Nat → Nat → Int → Int → Nat × Int
  | 0, oldR, _, oldS, _ => (oldR, oldS)
  | k + 1, oldR, r, oldS, s =>
    if r = 0 then (oldR, oldS)
    else inverseLoop k r (oldR - oldR / r * r) s (oldS - ((oldR / r : Nat) : Int) * s)

/-- "normalized into [0, b) by adding b if negative" (R154). -/
def normalise (i : Int) (b : Word) : Word :=
  BitVec.ofInt 32 (if i < 0 then i + (b.toNat : Int) else i)

/-- `modular_inverse(a, b)` (R154); no value outside its precondition `b ≥ 1`, `gcd(a, b) = 1` (93 U1). -/
def modularInverse (a b : Word) : Option Word :=
  let last := inverseLoop (b.toNat + 1) a.toNat b.toNat 1 0
  if b = 0#32 ∨ last.1 ≠ 1 then none else some (normalise last.2 b)

end Sys2Proof.Machine
end

