-- ==== Sys2Proof/Machine/Operands.lean ====
section
/-! DEFINITION. The operand forms of the commands (30_encoding.md R81, R83; 10_state.md R23). Every
operand is unsigned; the registers are read when the command first needs them, which gives what a
sample at the accept gives (20_memory.md R73; log 5). -/
namespace Sys2Proof.Machine

/-- Operand A at 64 bits, `{R[OPA_HI], R[OPA_LO]}` (R23); only MODPOW reads it so. -/
def opA64 (s : State) : DWord := s.opaHi ++ s.opaLo

/-- Operand A at 32 bits, `R[OPA_LO]` alone (R23). -/
def opA (s : State) : Word := s.opaLo

/-- Operand A as ENCRYPT's byte, `R[OPA_LO][7:0]` (R23, R81). -/
def opAByte (s : State) : BitVec 8 := s.opaLo.extractLsb' 0 8

/-- Operand B (R83). -/
def opB (s : State) : Word := s.opb

/-- Operand C (R83). -/
def opC (s : State) : Word := s.opc

end Sys2Proof.Machine
end

