-- ==== Sys2Proof/Machine/Flags.lean ====
section
/-! DEFINITION. `STATUS` and `CTRL` as words, and the host's acknowledge (10_state.md R30 to R37,
60_exceptions.md R206, R215). RSACORE has no arithmetic flags (R41). -/
namespace Sys2Proof.Machine

/-- The code of an error kind (R206). -/
def ErrKind.code : ErrKind → BitVec 4
  | .primeExhausted => 1#4
  | .inverseUndefined => 2#4
  | .operandFault => 3#4
  | .illegalCommand => 4#4
  | .entropyUnavailable => 5#4

/-- The field `ERR` (R35): 0 for `NONE`. -/
def errCode : Option ErrKind → BitVec 4
  | none => 0#4
  | some e => e.code

/-- `STATUS` as the host reads it (20_memory.md R61). -/
def Status.toWord (st : Status) : Word :=
  0#24 ++ errCode st.err ++ BitVec.ofBool st.ovr ++ BitVec.ofBool st.fatal
    ++ BitVec.ofBool st.done ++ BitVec.ofBool st.busy

/-- `CTRL` as the host reads it (R61). -/
def ctrlWord (ie : Bool) : Word := 0#31 ++ BitVec.ofBool ie

/-- Host write of `v` to `STATUS` (R36): bit 1 clears `DONE`, bit 3 clears `OVR`, nothing else changes.
This is the return from an error completion (R215). -/
def acknowledge (v : Word) (s : State) : State :=
  { s with status := { s.status with done := s.status.done && !v.getLsbD 1
                                     ovr := s.status.ovr && !v.getLsbD 3 } }

/-- Host write of `v` to `CTRL` (R37). -/
def writeCtrl (v : Word) (s : State) : State := { s with ie := v.getLsbD 0 }

/-- The interrupt output (R43, R214). -/
def irq (s : State) : Bool := s.ie && s.status.done

end Sys2Proof.Machine
end

