-- ==== Sys2Proof/Machine/Ops.lean ====
section
/-! DEFINITION. The shared operations on the register window: accept, completion, the error completion
(RSACORE's exception entry), host reads and writes, and reset (60_exceptions.md R200 to R205,
20_memory.md R61, R62, 70_reset_and_hazards.md R231). -/
namespace Sys2Proof.Machine

/-- The destination registers of a command (10_state.md R27). -/
inductive Dest where
  | res
  | keypair
  /-- An illegal command word has none. -/
  | nothing
  deriving DecidableEq, Repr

/-- Accept of the word `w` (R200): one step; destination registers are not touched. -/
def accept (w : Word) (s : State) : State :=
  { s with cmd := w
           status := { s.status with busy := true, done := false, err := none }
           work := none }

/-- The `STATUS` update of every completion (R204, R205); the working state does not survive it (R39). -/
def settle (err : Option ErrKind) (s : State) : State :=
  { s with status := { s.status with busy := false, done := true, err := err
                                     fatal := s.status.fatal || err == some .entropyUnavailable }
           work := none }

/-- Every destination register of the command written with 0 (R205). -/
def zeroDest (d : Dest) (s : State) : State :=
  match d with
  | .res => { s with res := 0#32 }
  | .keypair => { s with kp := .zero }
  | .nothing => s

/-- `raise E` (R205): the error completion, one step. -/
def raiseError (d : Dest) (e : ErrKind) (s : State) : State := settle (some e) (zeroDest d s)

/-- Completion of a command with destinations `d` and outcome `r` (R204, R205), one step. -/
def complete (d : Dest) (r : Result) (s : State) : State :=
  match r with
  | .res v => settle none { s with res := v }
  | .keypair k => settle none { s with kp := k }
  | .raise e => raiseError d e s

/-- A host write that is ignored and leaves its trace in `OVR` (R201). -/
def dropWrite (s : State) : State := { s with status := { s.status with ovr := true } }

/-- Host write to `CMD` (R200): accepted, or ignored while BUSY or FATAL. -/
def requestCommand (w : Word) (s : State) : State :=
  if s.status.busy || s.status.fatal then dropWrite s else accept w s

/-- Host write to an operand register (R62, R201): ignored while BUSY; `written` is the state with the
register written. -/
def writeOperand (written s : State) : State := if s.status.busy then dropWrite s else written

/-- `HostRead(idx)` (R61); it changes no state. -/
def hostRead (idx : RegIdx) (s : State) : Word :=
  match idx.toNat with
  | 0 => s.cmd
  | 1 => s.status.toWord
  | 2 => ctrlWord s.ie
  | 3 => s.opaLo
  | 4 => s.opaHi
  | 5 => s.opb
  | 6 => s.opc
  | 7 => s.res
  | 8 => s.kp.e
  | 9 => s.kp.d
  | 10 => s.kp.n
  | 11 => s.kp.p
  | 12 => s.kp.q
  | _ => 0#32

/-- `HostWrite(idx, v)` (R62); read-only and reserved indices ignore it (R65). -/
def hostWrite (idx : RegIdx) (v : Word) (s : State) : State :=
  match idx.toNat with
  | 0 => requestCommand v s
  | 1 => acknowledge v s
  | 2 => writeCtrl v s
  | 3 => writeOperand { s with opaLo := v } s
  | 4 => writeOperand { s with opaHi := v } s
  | 5 => writeOperand { s with opb := v } s
  | 6 => writeOperand { s with opc := v } s
  | _ => s

/-- One host transaction. The read data stand on `h_rdata` for that transaction only (R44; log 1). -/
def hostTurn (t : HostTxn) (s : State) : State :=
  match t with
  | .read idx => { s with hRdata := some (hostRead idx s) }
  | .write idx v => { hostWrite idx v s with hRdata := none }

/-- An edge with `rst = 1` (R230 to R232): the reset state, whatever the core was doing. The environment's
own inputs go on (log 13). -/
def applyReset (s : State) : State := { State.reset with turns := s.turns, entropy := s.entropy }

end Sys2Proof.Machine
end

