-- ==== Sys2Proof/Machine/CipherCommands.lean ====
section
/-! DEFINITION. The Cipher Core and its commands ENCRYPT and DECRYPT (44_cipher.md R185 to R188). They read
no `KP_*` register and check nothing but the modulus (R190). -/
namespace Sys2Proof.Machine

/-- `encrypt(byte, key, modulus)` (R185). -/
def encryptByte (byte : BitVec 8) (key modulus : Word) : Word :=
  modPow (byte.setWidth 64) key modulus

/-- `decrypt(cipher, key, modulus)` (R187): the low 8 bits of the power. -/
def decryptCipher (cipher key modulus : Word) : BitVec 8 :=
  (modPow (cipher.setWidth 64) key modulus).extractLsb' 0 8

/-- The outcome of ENCRYPT (R186). -/
def encryptResult (s : State) : Result :=
  if opC s = 0#32 then .raise .operandFault else .res (encryptByte (opAByte s) (opB s) (opC s))

/-- ENCRYPT (R186). -/
def execEncrypt (s : State) : Host.Outcome State Fault Refusal :=
  .next (complete .res (encryptResult s) s)

/-- The outcome of DECRYPT (R188), the byte zero-extended. -/
def decryptResult (s : State) : Result :=
  if opC s = 0#32 then .raise .operandFault
  else .res ((decryptCipher (opA s) (opB s) (opC s)).setWidth 32)

/-- DECRYPT (R188). -/
def execDecrypt (s : State) : Host.Outcome State Fault Refusal :=
  .next (complete .res (decryptResult s) s)

end Sys2Proof.Machine
end

