-- ==== Sys2Proof/Machine/Primality.lean ====
section
/-! DEFINITION. The Primality Engine: the small-prime table, the sieve, and one round of Miller–Rabin
(41_primality.md R120 to R126). -/
namespace Sys2Proof.Machine

/-- `PRIME[0..166]`, the first 167 odd primes (R120), one row of the spec's table a line. -/
def primeTable : List Nat :=
  [3, 5, 7, 11, 13, 17, 19, 23, 29, 31, 37, 41] ++
   [43, 47, 53, 59, 61, 67, 71, 73, 79, 83, 89, 97] ++
   [101, 103, 107, 109, 113, 127, 131, 137, 139, 149, 151, 157] ++
   [163, 167, 173, 179, 181, 191, 193, 197, 199, 211, 223, 227] ++
   [229, 233, 239, 241, 251, 257, 263, 269, 271, 277, 281, 283] ++
   [293, 307, 311, 313, 317, 331, 337, 347, 349, 353, 359, 367] ++
   [373, 379, 383, 389, 397, 401, 409, 419, 421, 431, 433, 439] ++
   [443, 449, 457, 461, 463, 467, 479, 487, 491, 499, 503, 509] ++
   [521, 523, 541, 547, 557, 563, 569, 571, 577, 587, 593, 599] ++
   [601, 607, 613, 617, 619, 631, 641, 643, 647, 653, 659, 661] ++
   [673, 677, 683, 691, 701, 709, 719, 727, 733, 739, 743, 751] ++
   [757, 761, 769, 773, 787, 797, 809, 811, 821, 823, 827, 829] ++
   [839, 853, 857, 859, 863, 877, 881, 883, 887, 907, 911, 919] ++
   [929, 937, 941, 947, 953, 967, 971, 977, 983, 991, 997]

/-- The sieve's three verdicts (R121). -/
inductive Verdict where
  | rejected | prime | undecided
  deriving DecidableEq, Repr

/-- Step 2 of the sieve (R121): trial division, the table's entries in ascending order. -/
def sieveTable (n : Nat) : List Nat → Verdict
  | [] => .undecided
  | t :: ts => if n = t then .prime else if n % t = 0 then .rejected else sieveTable n ts

/-- `sieve(n)` (R121). -/
def sieve (n : Word) : Verdict :=
  if n.toNat < 3 ∨ n.toNat % 2 = 0 then .rejected else sieveTable n.toNat primeTable

/-- The loop of `decompose` (R123): halve `d` while it is even, counting in `s`. -/
def decomposeLoop : Nat → Nat → Nat → Nat × Nat
  | 0, s, d => (s, d)
  | k + 1, s, d => if d % 2 = 0 then decomposeLoop k (s + 1) (d / 2) else (s, d)

/-- `decompose(n)` for odd `n ≥ 3` (R123): `(s, d)` with `2^s · d = n − 1`, `d` odd. -/
def decompose (n : Word) : Nat × Word :=
  let last := decomposeLoop 32 0 (n.toNat - 1)
  (last.1, word last.2)

/-- `MR_R_END(s)`, the normative value `s − 1` (00_scope.md R6, 90_conflicts.md C1). -/
def mrREnd (s : Nat) : Nat := s - 1

/-- The alternative `MR_R_END(s) = s`, "the only other value a model may take" (R6). The machine does not
use it; statements about a round can be made for both (log 9). -/
def mrREndAlt (s : Nat) : Nat := s

/-- The squaring chain of a round (R124): is one of the next `count` values `x, x², x⁴, …` equal to `n − 1`? -/
def mrChain (n : Nat) : Nat → Nat → Bool
  | 0, _ => false
  | k + 1, x => if x = n - 1 then true else mrChain n k (x * x % n)

/-- `mr_round_passes(n, s, d, base)` (R124) with the exclusive end of `r` as a parameter. -/
def mrRoundPasses (rEnd : Nat → Nat) (n : Word) (s : Nat) (d base : Word) : Bool :=
  let x := (modPow (base.setWidth 64) d n).toNat
  if x = 1 then true else mrChain n.toNat (rEnd s) x

/-- The candidate of one `get_prime` attempt, `range(128, 256)`, from the value of `uniform(128)` (R126). -/
def candidate (u : Word) : Word := u + word Config.primeLow

/-- Whether `get_prime` returns the candidate. R126: every candidate is in [128, 255], "so `sieve` alone
decides it" and no Miller–Rabin round runs (log 10). -/
def candidatePasses (c : Word) : Bool := sieve c == .prime

/-- SIEVE's coding of the verdict (R127). -/
def verdictWord : Verdict → Word
  | .rejected => 0#32
  | .prime => 1#32
  | .undecided => 2#32

/-- A `bool` in a register (00_scope.md R7). -/
def boolWord (b : Bool) : Word := if b then 1#32 else 0#32

end Sys2Proof.Machine
end

