-- ==== Sys2Proof/Machine/Keygen.lean ====
section
/-! DEFINITION. The Key Generator's arithmetic (43_keygen.md R171). -/
namespace Sys2Proof.Machine

/-- Step 3: `modulus = p · q`. -/
def keyModulus (p q : Word) : Word := p * q

/-- Step 4: `totient = (p − 1) · (q − 1)`. -/
def keyTotient (p q : Word) : Word := (p - 1#32) * (q - 1#32)

/-- Steps 5 to 7 on one exponent candidate `e`: the Keypair when `gcd(e, totient) = 1`, else another draw.
The precondition of `modular_inverse` holds by the test, so its `none` cannot arise (R171, R208). -/
def tryExponent (p q e : Word) : Progress :=
  if gcd e (keyTotient p q) = 1#32 then
    match modularInverse e (keyTotient p q) with
    | some d => .finished (.keypair ⟨e, d, keyModulus p q, p, q⟩)
    | none => .finished (.raise .inverseUndefined)
  else .draw (.keygenE p q)

end Sys2Proof.Machine
end

