-- ==== Sys2Proof/Machine/Random.lean ====
section
/-! DEFINITION. RandomSource: the rejection sampling of `uniform` and the handshake of `Draw()`
(40_random.md R100 to R102, 20_memory.md R68). -/
namespace Sys2Proof.Machine

/-- `limit = MAX_UINT − (MAX_UINT mod max)` (R101). -/
def uniformLimit (max : Word) : Nat := Config.maxUint - Config.maxUint % max.toNat

/-- The acceptance test `v < limit` of `uniform(max)` (R101). -/
def uniformAccepts (max v : Word) : Bool := decide (v.toNat < uniformLimit max)

/-- The value `v mod max` of an accepted word (R101). -/
def uniformValue (max v : Word) : Word := v % max

/-- `range(a, b)` from the value `u` of `uniform(b − a)` (R102). -/
def rangeValue (a u : Word) : Word := u + a

/-- The pins the entropy source presents at this handshake (R68, R69); all low when it presents nothing more. -/
def EntropyPort.now (e : EntropyPort) : EntPins := e.head ⟨false, false, 0#32⟩ Config.freePins

/-- The pins the entropy source presents at handshake `k` from here on: the stream `E(k)` of R69, and when it waits. -/
def EntropyPort.pinsAt (e : EntropyPort) (k : Nat) : EntPins := EntropyPort.now (e.afterMany k)

/-- The next handshakes see the entries of the list, in order (R69: strictly in order, each once). -/
def EntropyPort.presents (e : EntropyPort) : List EntPins → Prop
  | [] => True
  | p :: ps => EntropyPort.now e = p ∧ EntropyPort.presents e.after ps

end Sys2Proof.Machine
end

