-- ==== Sys2Proof/Machine/Draw.lean ====
section
/-! DEFINITION. The command in flight between two draws (10_state.md R39, 20_memory.md R70): what `uniform`
is asked for at each point, how the pseudocode goes on with its value up to the next `Draw()` or the
end, and the one handshake step. -/
namespace Sys2Proof.Machine

/-- The argument of the `uniform` call that the point stands in. -/
def Point.max : Point → Word
  | .uniform max => max
  | .range a b => b - a
  | .millerRabin n _ _ _ => (n - 1#32) - 2#32
  | .getPrime _ => word Config.primeHigh - word Config.primeLow
  | .keygenP _ => word Config.primeHigh - word Config.primeLow
  | .keygenQ _ _ => word Config.primeHigh - word Config.primeLow
  | .keygenE p q => keyTotient p q - 1#32

/-- The first draw of `miller_rabin(n)` (R124). -/
def mrStart (n : Word) : Progress :=
  .draw (.millerRabin n (decompose n).1 (decompose n).2 1)

/-- After the base of round `round` (R124): stop at the first failing round, accept after the last. -/
def mrNext (n : Word) (s : Nat) (d : Word) (round : Nat) (base : Word) : Progress :=
  if mrRoundPasses mrREnd n s d base then
    if round < Config.mrRounds then .draw (.millerRabin n s d (round + 1))
    else .finished (.res (boolWord true))
  else .finished (.res (boolWord false))

/-- After a candidate of `get_prime` that is rejected (R126): the next attempt at `again`, or exhaustion (R207). -/
def nextAttempt (attempt : Nat) (again : Nat → Point) : Progress :=
  if attempt < Config.primeAttempts then .draw (again (attempt + 1))
  else .finished (.raise .primeExhausted)

/-- How the pseudocode goes on at each point with the value `u` of its `uniform` call. -/
def resume (pt : Point) (u : Word) : Progress :=
  match pt with
  | .uniform _ => .finished (.res u)
  | .range a _ => .finished (.res (rangeValue a u))
  | .millerRabin n s d round => mrNext n s d round (rangeValue 2#32 u)
  | .getPrime attempt =>
    if candidatePasses (candidate u) then .finished (.res (candidate u))
    else nextAttempt attempt .getPrime
  | .keygenP attempt =>
    if candidatePasses (candidate u) then .draw (.keygenQ (candidate u) 1)
    else nextAttempt attempt .keygenP
  | .keygenQ p attempt =>
    if candidatePasses (candidate u) then
      if candidate u ≠ p then .draw (.keygenE p (candidate u)) else .draw (.keygenQ p 1)
    else nextAttempt attempt (.keygenQ p)
  | .keygenE p q => tryExponent p q (rangeValue 1#32 u)

/-- What one handshake at `pt` makes of the pins (R68, R100, R101): `ent_fail` first, then a word, which
`uniform` takes or discards, else the core waits. -/
def drawOutcome (pt : Point) (pins : EntPins) : Progress :=
  if pins.fail then .finished (.raise .entropyUnavailable)
  else if pins.valid && uniformAccepts pt.max pins.data then resume pt (uniformValue pt.max pins.data)
  else .draw pt

/-- One `Draw()` handshake step (R70). -/
def handshake (pt : Point) (s : State) : State :=
  { s with work := some (drawOutcome pt s.entropy.now), entropy := s.entropy.after }

/-- One step of a command in flight: a handshake or the completion (R70; log 4). `start` is how far the
command comes before its first draw; it counts only while the working state is empty. -/
def advance (d : Dest) (start : Progress) (s : State) : State :=
  match s.work.getD start with
  | .draw pt => handshake pt s
  | .finished r => complete d r s

end Sys2Proof.Machine
end

