-- ==== Sys2Proof/Machine/KeygenCommands.lean ====
section
/-! DEFINITION. The command KEYGEN (43_keygen.md R172). -/
namespace Sys2Proof.Machine

/-- KEYGEN up to its first draw (R171 step 1): the first candidate for `p`. No operand is read. -/
def startKeygen (_ : State) : Progress := .draw (.keygenP 1)

/-- KEYGEN (R172): the five `KP_*` registers are its only destinations. -/
def execKeygen (s : State) : Host.Outcome State Fault Refusal :=
  .next (advance .keypair (startKeygen s) s)

end Sys2Proof.Machine
end

