-- ==== Sys2Proof/Machine/ModArithCommands.lean ====
section
/-! DEFINITION. The commands MODPOW, GCD and MODINV (42_modarith.md R151, R153, R155). They draw no entropy. -/
namespace Sys2Proof.Machine

/-- The outcome of MODPOW (R151): `OperandFault` when the modulus is 0. -/
def modpowResult (s : State) : Result :=
  if opC s = 0#32 then .raise .operandFault else .res (modPow (opA64 s) (opB s) (opC s))

/-- MODPOW (R151). -/
def execModpow (s : State) : Host.Outcome State Fault Refusal :=
  .next (complete .res (modpowResult s) s)

/-- The outcome of GCD (R153). -/
def gcdResult (s : State) : Result := .res (gcd (opA s) (opB s))

/-- GCD (R153). -/
def execGcd (s : State) : Host.Outcome State Fault Refusal :=
  .next (complete .res (gcdResult s) s)

/-- The outcome of MODINV (R155), its errors in the order of R213: `b = 0`, then `gcd(a, b) ≠ 1`. -/
def modinvResult (s : State) : Result :=
  if opB s = 0#32 then .raise .operandFault
  else if gcd (opA s) (opB s) ≠ 1#32 then .raise .inverseUndefined
  else match modularInverse (opA s) (opB s) with
    | some x => .res x
    | none => .raise .inverseUndefined

/-- MODINV (R155). -/
def execModinv (s : State) : Host.Outcome State Fault Refusal :=
  .next (complete .res (modinvResult s) s)

end Sys2Proof.Machine
end

