-- ==== Sys2Proof/Machine/PrimalityCommands.lean ====
section
/-! DEFINITION. The commands SIEVE, MRTEST, ISPRIME and GETPRIME (41_primality.md R127 to R130). -/
namespace Sys2Proof.Machine

/-- The outcome of SIEVE (R127). -/
def sieveResult (s : State) : Result := .res (verdictWord (sieve (opA s)))

/-- SIEVE (R127): no entropy, always completes. -/
def execSieve (s : State) : Host.Outcome State Fault Refusal :=
  .next (complete .res (sieveResult s) s)

/-- MRTEST up to its first draw (R128): `OperandFault` when `n < 5` or `n` is even. -/
def startMrtest (s : State) : Progress :=
  if (opA s).toNat < 5 ∨ (opA s).toNat % 2 = 0 then .finished (.raise .operandFault)
  else mrStart (opA s)

/-- MRTEST (R128). -/
def execMrtest (s : State) : Host.Outcome State Fault Refusal :=
  .next (advance .res (startMrtest s) s)

/-- ISPRIME up to its first draw (R125, R129): the sieve decides, or `miller_rabin` begins. -/
def startIsprime (s : State) : Progress :=
  match sieve (opA s) with
  | .rejected => .finished (.res (boolWord false))
  | .prime => .finished (.res (boolWord true))
  | .undecided => mrStart (opA s)

/-- ISPRIME (R129). -/
def execIsprime (s : State) : Host.Outcome State Fault Refusal :=
  .next (advance .res (startIsprime s) s)

/-- GETPRIME up to its first draw (R126, R130): the first attempt. -/
def startGetprime (_ : State) : Progress := .draw (.getPrime 1)

/-- GETPRIME (R130). -/
def execGetprime (s : State) : Host.Outcome State Fault Refusal :=
  .next (advance .res (startGetprime s) s)

end Sys2Proof.Machine
end

