-- ==== Sys2Proof/Machine/RandomCommands.lean ====
section
/-! DEFINITION. The commands UNIFORM and RANGE (40_random.md R103, R104). -/
namespace Sys2Proof.Machine

/-- UNIFORM up to its first draw (R103): `OperandFault` when `max = 0`, before any draw. -/
def startUniform (s : State) : Progress :=
  if opA s = 0#32 then .finished (.raise .operandFault) else .draw (.uniform (opA s))

/-- UNIFORM (R103). -/
def execUniform (s : State) : Host.Outcome State Fault Refusal :=
  .next (advance .res (startUniform s) s)

/-- RANGE up to its first draw (R104): `OperandFault` when `b ≤ a`, unsigned, before any draw. -/
def startRange (s : State) : Progress :=
  if opB s ≤ opA s then .finished (.raise .operandFault) else .draw (.range (opA s) (opB s))

/-- RANGE (R104). -/
def execRange (s : State) : Host.Outcome State Fault Refusal :=
  .next (advance .res (startRange s) s)

end Sys2Proof.Machine
end

