-- ==== Sys2Proof/Machine/Dispatch.lean ====
section
/-! DEFINITION. One arm per command: one core step of the command in flight (30_encoding.md R82). -/
namespace Sys2Proof.Machine
open Host

def exec (i : Instr) (s : State) : Host.Outcome State Fault Refusal :=
  match i with
  | .keygen => Sys2Proof.Machine.execKeygen s
  | .encrypt => Sys2Proof.Machine.execEncrypt s
  | .decrypt => Sys2Proof.Machine.execDecrypt s
  | .modpow => Sys2Proof.Machine.execModpow s
  | .gcd => Sys2Proof.Machine.execGcd s
  | .modinv => Sys2Proof.Machine.execModinv s
  | .isprime => Sys2Proof.Machine.execIsprime s
  | .sieve => Sys2Proof.Machine.execSieve s
  | .mrtest => Sys2Proof.Machine.execMrtest s
  | .getprime => Sys2Proof.Machine.execGetprime s
  | .uniform => Sys2Proof.Machine.execUniform s
  | .range => Sys2Proof.Machine.execRange s

end Sys2Proof.Machine
end

