-- ==== Sys2Proof/Machine/Sequencer.lean ====
section
/-! DEFINITION. The core's sequencer: what stands in for fetching (10_state.md R24), the core's own step,
and the output `ent_req`. -/
namespace Sys2Proof.Machine

/-- The current instruction (R24): "`R[CMD]` (the last accepted command word) together with `STATUS.BUSY`". -/
def current (s : State) : Except DecodeError Instr := decode s.cmd

/-- One step of the core. Idle, it does nothing; a legal word takes one step of its command; an illegal
word completes with `IllegalCommand` and writes no destination register (60_exceptions.md R202). -/
def coreStep (s : State) : Host.Outcome State Fault Refusal :=
  if s.status.busy then
    match current s with
    | .ok i => exec i s
    | .error _ => .next (raiseError .nothing .illegalCommand s)
  else .next s

/-- How far a command just accepted comes before its first draw. -/
def firstProgress (i : Instr) (s : State) : Progress :=
  match i with
  | .keygen => startKeygen s
  | .encrypt => .finished (encryptResult s)
  | .decrypt => .finished (decryptResult s)
  | .modpow => .finished (modpowResult s)
  | .gcd => .finished (gcdResult s)
  | .modinv => .finished (modinvResult s)
  | .isprime => startIsprime s
  | .sieve => .finished (sieveResult s)
  | .mrtest => startMrtest s
  | .getprime => startGetprime s
  | .uniform => startUniform s
  | .range => startRange s

/-- Where a command in flight stands: for the six that draw, in its working state or, just accepted, before its
first draw; the six that draw nothing are at their end at once. -/
def progress (i : Instr) (s : State) : Progress :=
  match i with
  | .keygen | .isprime | .mrtest | .getprime | .uniform | .range => s.work.getD (firstProgress i s)
  | .encrypt | .decrypt | .modpow | .gcd | .modinv | .sieve => firstProgress i s

/-- The output `ent_req` (R44): "the core is inside a `Draw()` and wants a word". -/
def entReq (s : State) : Bool :=
  s.status.busy &&
    match current s with
    | .error _ => false
    | .ok i =>
      match progress i s with
      | .draw _ => true
      | .finished _ => false

/-- The turn that is next (20_memory.md R70; log 2); when no more turns are scheduled it is the core's
(70_reset_and_hazards.md R245: weak fairness). -/
def nextTurn (s : State) : Turn := s.turns.head .core Config.freeTurn

/-- The state in which a turn is taken: the turn is used up, and no read data stand on `h_rdata` (R44). -/
def takeTurn (s : State) : State := { s with turns := s.turns.after, hRdata := none }

/-- The state with a command word accepted and the core to move: what stands in for storing an
instruction where the next step fetches it (R24, R200; log 11). -/
def loadCommand (w : Word) (s : State) : State := { accept w s with turns := s.turns.push .core }

end Sys2Proof.Machine
end

