-- ==== Sys2Proof/Machine/Step.lean ====
section
/-! DEFINITION. One step of the machine: the turn of one agent (20_memory.md R70; log 2), and where the
host places a command word for the next step. -/
namespace Sys2Proof.Machine

/-- One atomic step (R70): the agent whose turn it is moves. -/
def step (s : State) : Host.Outcome State Fault Refusal :=
  match nextTurn s with
  | .reset _ => .next (applyReset (takeTurn s))
  | .host t => .next (hostTurn t (takeTurn s))
  | .core => coreStep (takeTurn s)

/-- `s` with the command word of an opcode-table row in the place of the current instruction (log 11). -/
def State.withFetchWord (s : State) (nbits w : Nat) : State := loadCommand (word (w % 2 ^ nbits)) s

end Sys2Proof.Machine
end

