-- ==== Sys2Proof/Machine/Stream.lean ====
section
/-! DEFINITION. The pseudocode of the drawing functions as functions of the entropy words, and commands as
"one function from (sampled operands, entropy stream) to (outcome, number of words taken)" (10_state.md
R39, 20_memory.md R69). The step does not call this file; statements say that the step agrees with it.
Each function answers its value and the words left over, or `none` when the words run out first. -/
namespace Sys2Proof.Machine

/-- The pins of an edge that presents a word (R68). -/
def presentWord (w : Word) : EntPins := ⟨false, true, w⟩

/-- `uniform(max)` (40_random.md R101). -/
def uniformOn (max : Word) : List Word → Option (Word × List Word)
  | [] => none
  | v :: vs => if uniformAccepts max v then some (uniformValue max v, vs) else uniformOn max vs

/-- `range(a, b)` (R102). -/
def rangeOn (a b : Word) (ws : List Word) : Option (Word × List Word) :=
  match uniformOn (b - a) ws with
  | none => none
  | some (u, rest) => some (rangeValue a u, rest)

/-- The last `k` rounds of `miller_rabin(n)` (41_primality.md R124). -/
def mrRoundsOn (n : Word) (s : Nat) (d : Word) : Nat → List Word → Option (Bool × List Word)
  | 0, ws => some (true, ws)
  | k + 1, ws =>
    match rangeOn 2#32 (n - 1#32) ws with
    | none => none
    | some (base, rest) =>
      if mrRoundPasses mrREnd n s d base then mrRoundsOn n s d k rest else some (false, rest)

/-- `miller_rabin(n)` (R124). -/
def millerRabinOn (n : Word) (ws : List Word) : Option (Bool × List Word) :=
  mrRoundsOn n (decompose n).1 (decompose n).2 Config.mrRounds ws

/-- `is_probable_prime(n)` (R125). -/
def isProbablePrimeOn (n : Word) (ws : List Word) : Option (Bool × List Word) :=
  match sieve n with
  | .rejected => some (false, ws)
  | .prime => some (true, ws)
  | .undecided => millerRabinOn n ws

/-- The last `k` attempts of `get_prime()` (R126). -/
def attemptsOn : Nat → List Word → Option (Option Word × List Word)
  | 0, ws => some (none, ws)
  | k + 1, ws =>
    match rangeOn (word Config.primeLow) (word Config.primeHigh) ws with
    | none => none
    | some (c, rest) =>
      match isProbablePrimeOn c rest with
      | none => none
      | some (true, rest') => some (some c, rest')
      | some (false, rest') => attemptsOn k rest'

/-- `get_prime()` (R126). -/
def getPrimeOn (ws : List Word) : Option (Option Word × List Word) := attemptsOn Config.primeAttempts ws

/-- Step 2 of `generate_keypair` (43_keygen.md R171): `get_prime` again while `q = p`. Every call takes a
word, so as many calls as there are words are all the words can feed. -/
def distinctOn (p : Word) : Nat → List Word → Option (Option Word × List Word)
  | 0, _ => none
  | k + 1, ws =>
    match getPrimeOn ws with
    | none => none
    | some (none, rest) => some (none, rest)
    | some (some q, rest) => if q ≠ p then some (some q, rest) else distinctOn p k rest

/-- Step 5 (R171): the exponent, drawn until it is coprime to the totient. -/
def exponentOn (totient : Word) : Nat → List Word → Option (Word × List Word)
  | 0, _ => none
  | k + 1, ws =>
    match rangeOn 1#32 totient ws with
    | none => none
    | some (e, rest) => if gcd e totient = 1#32 then some (e, rest) else exponentOn totient k rest

/-- Steps 5 to 7 (R171). -/
def keysOn (p q : Word) (ws : List Word) : Option (Result × List Word) :=
  match exponentOn (keyTotient p q) (ws.length + 1) ws with
  | none => none
  | some (e, rest) =>
    match modularInverse e (keyTotient p q) with
    | some d => some (.keypair ⟨e, d, keyModulus p q, p, q⟩, rest)
    | none => some (.raise .inverseUndefined, rest)

/-- `generate_keypair()` (R171). -/
def generateKeypairOn (ws : List Word) : Option (Result × List Word) :=
  match getPrimeOn ws with
  | none => none
  | some (none, rest) => some (.raise .primeExhausted, rest)
  | some (some p, rest) =>
    match distinctOn p (rest.length + 1) rest with
    | none => none
    | some (none, rest') => some (.raise .primeExhausted, rest')
    | some (some q, rest') => keysOn p q rest'

/-- A boolean verdict as an outcome (R25). -/
def verdictOn (r : Option (Bool × List Word)) : Option (Result × List Word) :=
  match r with
  | none => none
  | some (b, rest) => some (.res (boolWord b), rest)

/-- A value as an outcome. -/
def valueOn (r : Option (Word × List Word)) : Option (Result × List Word) :=
  match r with
  | none => none
  | some (v, rest) => some (.res v, rest)

/-- A command on the operands of `s` and the words `ws`: its outcome and the words left. -/
def commandOn (i : Instr) (s : State) (ws : List Word) : Option (Result × List Word) :=
  match i with
  | .keygen => generateKeypairOn ws
  | .encrypt => some (encryptResult s, ws)
  | .decrypt => some (decryptResult s, ws)
  | .modpow => some (modpowResult s, ws)
  | .gcd => some (gcdResult s, ws)
  | .modinv => some (modinvResult s, ws)
  | .isprime => verdictOn (isProbablePrimeOn (opA s) ws)
  | .sieve => some (sieveResult s, ws)
  | .mrtest =>
    if (opA s).toNat < 5 ∨ (opA s).toNat % 2 = 0 then some (.raise .operandFault, ws)
    else verdictOn (millerRabinOn (opA s) ws)
  | .getprime =>
    match getPrimeOn ws with
    | none => none
    | some (some c, rest) => some (.res c, rest)
    | some (none, rest) => some (.raise .primeExhausted, rest)
  | .uniform =>
    if opA s = 0#32 then some (.raise .operandFault, ws) else valueOn (uniformOn (opA s) ws)
  | .range =>
    if opB s ≤ opA s then some (.raise .operandFault, ws) else valueOn (rangeOn (opA s) (opB s) ws)

/-- The destination registers of each command (10_state.md R27). -/
def destOf : Instr → Dest
  | .keygen => .keypair
  | .encrypt | .decrypt | .modpow | .gcd | .modinv | .isprime | .sieve | .mrtest | .getprime
  | .uniform | .range => .res

/-- `k` core steps of the command `i`, nothing else moving. -/
def execTimes : Nat → Instr → State → Host.Outcome State Fault Refusal
  | 0, _, s => .next s
  | k + 1, i, s =>
    match exec i s with
    | .next t => execTimes k i t
    | .fault f => .fault f
    | .refused r => .refused r

end Sys2Proof.Machine
end

