-- ==== Sys2Proof/Safety.lean ====
section
/-! DEFINITION. The terms statements use: the completed states of R204 and R205 written out, what a
generated Keypair is (43_keygen.md R173, R174), and the machine's invariant. -/
namespace Sys2Proof.Machine

/-- What a successful completion with the value `v` in `RES` leaves (60_exceptions.md R204). -/
def okRes (v : Word) (s : State) : State :=
  { s with res := v, status := { s.status with busy := false, done := true, err := none }, work := none }

/-- What a successful KEYGEN leaves (R204). -/
def okKeys (k : Keypair) (s : State) : State :=
  { s with kp := k, status := { s.status with busy := false, done := true, err := none }, work := none }

/-- The `STATUS` an error completion leaves (R205). -/
def errStatus (e : ErrKind) (st : Status) : Status :=
  { st with busy := false, done := true, err := some e, fatal := st.fatal || e == .entropyUnavailable }

/-- What an error completion of a command with destination `RES` leaves (R205). -/
def errRes (e : ErrKind) (s : State) : State :=
  { s with res := 0#32, status := errStatus e s.status, work := none }

/-- What an error completion of KEYGEN leaves (R205). -/
def errKeys (e : ErrKind) (s : State) : State :=
  { s with kp := .zero, status := errStatus e s.status, work := none }

/-- A prime that `get_prime` can return (R126, R174): a prime in [128, 255]. -/
def GenPrime (p : Word) : Prop := Nat.Prime p.toNat ∧ 128 ≤ p.toNat ∧ p.toNat ≤ 255

/-- `(p − 1)(q − 1)` as a number. -/
def totientNat (k : Keypair) : Nat := (k.p.toNat - 1) * (k.q.toNat - 1)

/-- The Keypair invariant (R173) with the bounds of R174 on the exponents. -/
structure KeypairOk (k : Keypair) : Prop where
  p_prime : GenPrime k.p
  q_prime : GenPrime k.q
  distinct : k.p ≠ k.q
  modulus : k.n.toNat = k.p.toNat * k.q.toNat
  coprime : Nat.gcd k.e.toNat (totientNat k) = 1
  inverse : k.e.toNat * k.d.toNat % totientNat k = 1
  e_low : 1 ≤ k.e.toNat
  e_high : k.e.toNat < totientNat k
  d_low : 1 ≤ k.d.toNat
  d_high : k.d.toNat < totientNat k

/-- Which errors a command can raise (60_exceptions.md R206, column "raised by"). -/
def mayRaise (i : Instr) (e : ErrKind) : Bool :=
  match e with
  | .primeExhausted => i == .getprime || i == .keygen
  | .inverseUndefined => i == .modinv
  | .operandFault =>
    i == .modpow || i == .encrypt || i == .decrypt || i == .modinv || i == .uniform || i == .range
      || i == .mrtest
  | .illegalCommand => false
  | .entropyUnavailable =>
    i == .uniform || i == .range || i == .mrtest || i == .isprime || i == .getprime || i == .keygen

/-- A Miller–Rabin point on `n` (41_primality.md R124): the decomposition of `n − 1`, a round in 1..10. -/
def RoundOk (n : Word) (s : Nat) (d : Word) (round : Nat) : Prop :=
  decompose n = (s, d) ∧ 1 ≤ round ∧ round ≤ Config.mrRounds

/-- An attempt of `get_prime` (R126) is one of 1..400. -/
def AttemptOk (attempt : Nat) : Prop := 1 ≤ attempt ∧ attempt ≤ Config.primeAttempts

/-- The point of a draw belongs to the command in flight and meets the precondition of its `uniform` or
`range` call (40_random.md R105). -/
def PointOk (i : Instr) (s : State) (pt : Point) : Prop :=
  match i, pt with
  | .uniform, .uniform max => max = s.opaLo ∧ max ≠ 0#32
  | .range, .range a b => a = s.opaLo ∧ b = s.opb ∧ a < b
  | .mrtest, .millerRabin n sh d round =>
    n = s.opaLo ∧ 5 ≤ n.toNat ∧ n.toNat % 2 = 1 ∧ RoundOk n sh d round
  | .isprime, .millerRabin n sh d round => n = s.opaLo ∧ sieve n = .undecided ∧ RoundOk n sh d round
  | .getprime, .getPrime attempt => AttemptOk attempt
  | .keygen, .keygenP attempt => AttemptOk attempt
  | .keygen, .keygenQ p attempt => GenPrime p ∧ AttemptOk attempt
  | .keygen, .keygenE p q => GenPrime p ∧ GenPrime q ∧ p ≠ q
  | _, _ => False

/-- An outcome reached through a draw is one the command's rule allows. -/
def OutcomeOk (i : Instr) (s : State) (r : Result) : Prop :=
  match r with
  | .raise e => (e = .primeExhausted ∨ e = .entropyUnavailable) ∧ mayRaise i e = true
  | .keypair k => i = .keygen ∧ KeypairOk k
  | .res v =>
    (i = .uniform ∧ v < s.opaLo) ∨ (i = .range ∧ s.opaLo ≤ v ∧ v < s.opb) ∨
    ((i = .mrtest ∨ i = .isprime) ∧ (v = 0#32 ∨ v = 1#32)) ∨ (i = .getprime ∧ GenPrime v)

/-- The working state fits the current command. -/
def WorkOk (i : Instr) (s : State) : Prop :=
  match s.work with
  | none => True
  | some (.draw pt) => PointOk i s pt
  | some (.finished r) => OutcomeOk i s r

/-- The machine's invariant. -/
structure MachineInv (s : State) : Prop where
  /-- No command in flight: the working state is empty (10_state.md R39, R42). -/
  idle_empty : s.status.busy = false → s.work = none
  /-- A command in flight: `DONE = 0` and `ERR = 0` since its accept (60_exceptions.md R200). -/
  busy_status : s.status.busy = true → s.status.done = false ∧ s.status.err = none
  /-- The fatal state is the one `EntropyUnavailable` left (10_state.md R33, 60_exceptions.md R211). -/
  fatal_err : s.status.fatal = true ↔ s.status.err = some .entropyUnavailable
  /-- The working state belongs to the command in `CMD`; an illegal word has none. -/
  work_fits : ∀ i, current s = .ok i → WorkOk i s
  illegal_empty : ∀ e, current s = .error e → s.work = none
  /-- The Keypair registers hold a generated Keypair or zeros (R26, R173, R205). -/
  keypair : s.kp = .zero ∨ KeypairOk s.kp

end Sys2Proof.Machine
end

