-- ==== Sys2Proof/WellFormed.lean ====
section
/-! DEFINITION. Well-formed command words (30_encoding.md R80, R84) and well-formed instructions.
A command has no fields, so every `Instr` is well formed; what can be ill formed is a word. -/
namespace Sys2Proof

/-- Check 1 (R80): the field `zero`, bits 31:8, is 0. -/
def zeroFieldOk (w : Word) : Bool := w.extractLsb' 8 24 == 0#24

/-- Check 2 (R82, R84): the field `opcode`, bits 7:0, is one of 0x01 to 0x0C. -/
def opcodeOk (w : Word) : Bool :=
  decide (1 ≤ (w.extractLsb' 0 8).toNat) && decide ((w.extractLsb' 0 8).toNat ≤ 12)

/-- A legal command word: one of the twelve words of R82; every other word is illegal (R84). -/
def wordWf (w : Word) : Bool := zeroFieldOk w && opcodeOk w

/-- A command word carries no operand (R81): there is nothing in an `Instr` that could be ill formed. -/
def Instr.wf (_ : Instr) : Bool := true

end Sys2Proof
end

