-- ==== Sys2Proof/Certificates/Slice0/Obligations.lean ====
section
/-! DEFINITION. The statements for the provers. `okRes`, `okKeys`, `errRes` and `errKeys` (Safety.lean) are
the states that R204 and R205 of 60_exceptions.md leave, written out; `execTimes k i s` is `k` core steps. -/
open Sys2Proof Sys2Proof.Machine

/-! ## Encoding -/

/-- Decoding the word of a command gives it back, and no other word decodes to it (30_encoding.md R80,
R82, R84). -/
def Obligations.DecodeEncodeAgree : Prop :=
  ∀ (w : Word) (i : Instr), decode w = .ok i ↔ w = encode i

/-- The words of the opcode map decode to the commands it names (R82), and neighbours do not (R84). -/
def Obligations.OpcodeMapDecodes : Prop :=
  decode 0x00000001#32 = .ok .keygen ∧ decode 0x00000002#32 = .ok .encrypt ∧
  decode 0x00000003#32 = .ok .decrypt ∧ decode 0x00000004#32 = .ok .modpow ∧
  decode 0x00000005#32 = .ok .gcd ∧ decode 0x00000006#32 = .ok .modinv ∧
  decode 0x00000007#32 = .ok .isprime ∧ decode 0x00000008#32 = .ok .sieve ∧
  decode 0x00000009#32 = .ok .mrtest ∧ decode 0x0000000A#32 = .ok .getprime ∧
  decode 0x0000000B#32 = .ok .uniform ∧ decode 0x0000000C#32 = .ok .range ∧
  decode 0x00000000#32 = .error .opcode ∧ decode 0x0000000D#32 = .error .opcode ∧
  decode 0x00000105#32 = .error .zeroField

/-- A word is rejected exactly when it is illegal in the words of R84: bits 31:8 not 0, or bits 7:0 equal
to 0x00 or in 0x0D..0xFF. -/
def Obligations.IllegalWordsRejected : Prop :=
  ∀ w : Word, (∃ e, decode w = .error e) ↔
    (256 ≤ w.toNat ∨ w.toNat % 256 = 0 ∨ 0x0D ≤ w.toNat % 256)

/-! ## Steps and the life of a command -/

/-- A core turn on a busy core whose `CMD` decodes to `i` is one step of `exec i` (10_state.md R24), after the
turn is used up and `h_rdata` is no longer valid (the model's own choices, log 1 and log 2). -/
def Obligations.StepRunsCurrentCommand : Prop :=
  ∀ (s : State) (i : Instr), s.status.busy = true → decode s.cmd = .ok i → nextTurn s = .core →
    step s = exec i { s with turns := s.turns.after, hRdata := none }

/-- A host turn is one host transaction (20_memory.md R70): a write does `hostWrite`; a read changes nothing but
puts `hostRead` on `h_rdata`; an idle core's turn does nothing, scheduled or not; an edge with `rst = 1` resets
(R230). The next turn is the first of those listed, and the core's when no more are to come. How turns and
`h_rdata` are held is the model's own choice (log 1, log 2). -/
def Obligations.TurnsOfTheOtherAgents : Prop :=
  ∀ s : State,
    (∀ idx v, nextTurn s = .host (.write idx v) →
      step s = .next { hostWrite idx v { s with turns := s.turns.after, hRdata := none } with hRdata := none }) ∧
    (∀ idx, nextTurn s = .host (.read idx) →
      step s = .next { s with turns := s.turns.after, hRdata := some (hostRead idx s) }) ∧
    (∀ x, nextTurn s = .reset x →
      step s = .next { State.reset with turns := s.turns.after, entropy := s.entropy }) ∧
    (nextTurn s = .core → s.status.busy = false →
      step s = .next { s with turns := s.turns.after, hRdata := none }) ∧
    (∀ x ts, s.turns.ahead = x :: ts → nextTurn s = x ∧ s.turns.after = ⟨ts, s.turns.rest⟩) ∧
    (∀ x ts, s.turns = ⟨[], .again (x :: ts)⟩ → nextTurn s = x ∧ s.turns.after = ⟨ts, .again (x :: ts)⟩) ∧
    (s.turns = ⟨[], .again []⟩ → s.status.busy = false → step s = .next { s with hRdata := none })

/-- A command word placed by `withFetchWord` is what the next step runs (the model's own choice of what
stands in for a fetch, log 11). -/
def Obligations.PlacedCommandRuns : Prop :=
  ∀ (s : State) (i : Instr),
    step (s.withFetchWord 32 (encode i).toNat) =
      exec i { s with cmd := encode i, work := none, hRdata := none, status := { s.status with busy := true, done := false, err := none } }

/-- A host write to `CMD` (60_exceptions.md R200): ignored with `OVR` while BUSY or FATAL, else the accept. -/
def Obligations.CommandWriteAcceptedOrIgnored : Prop :=
  ∀ (s : State) (w : Word),
    hostWrite 0#4 w s =
      if s.status.busy = true ∨ s.status.fatal = true then { s with status := { s.status with ovr := true } }
      else { s with cmd := w, work := none, status := { s.status with busy := true, done := false, err := none } }

/-- An illegal word written to `CMD` of a core that can accept it completes in the next core step with
`ILLEGAL_COMMAND` (R202): no operand is read, no entropy drawn, no destination written, and `CMD` holds
the word. -/
def Obligations.IllegalCommandCompletes : Prop :=
  ∀ (s : State) (w : Word), s.status.busy = false → s.status.fatal = false →
    (256 ≤ w.toNat ∨ w.toNat % 256 = 0 ∨ 0x0D ≤ w.toNat % 256) →
    (hostWrite 0#4 w s).cmd = w ∧ (hostWrite 0#4 w s).status.busy = true ∧
    coreStep (hostWrite 0#4 w s) =
      .next { s with cmd := w, work := none, status := { s.status with busy := false, done := true, err := some .illegalCommand } }

/-- Ignored and honoured writes (R201): while BUSY a write to `CMD` or an operand register changes nothing
but sets `OVR`; while FATAL and not BUSY a write to `CMD` likewise, and operand writes are honoured; writes
to `STATUS` and `CTRL` are honoured in every state. -/
def Obligations.WritesWhileBusyOrFatal : Prop :=
  ∀ (s : State) (v : Word),
    (s.status.busy = true → ∀ idx : RegIdx, idx = 0#4 ∨ idx = 3#4 ∨ idx = 4#4 ∨ idx = 5#4 ∨ idx = 6#4 →
      hostWrite idx v s = { s with status := { s.status with ovr := true } }) ∧
    (s.status.busy = false → s.status.fatal = true →
      hostWrite 0#4 v s = { s with status := { s.status with ovr := true } } ∧
      hostWrite 3#4 v s = { s with opaLo := v } ∧ hostWrite 4#4 v s = { s with opaHi := v } ∧
      hostWrite 5#4 v s = { s with opb := v } ∧ hostWrite 6#4 v s = { s with opc := v }) ∧
    hostWrite 1#4 v s = { s with status := { s.status with done := (if v.getLsbD 1 then false else s.status.done), ovr := (if v.getLsbD 3 then false else s.status.ovr) } } ∧
    hostWrite 2#4 v s = { s with ie := v.getLsbD 0 }

/-- `HostWrite` of an operand register (20_memory.md R62) on a core that is not busy stores the word, whole,
and changes nothing else. -/
def Obligations.OperandWriteStores : Prop :=
  ∀ (s : State) (v : Word), s.status.busy = false →
    hostWrite 3#4 v s = { s with opaLo := v } ∧ hostWrite 4#4 v s = { s with opaHi := v } ∧
    hostWrite 5#4 v s = { s with opb := v } ∧ hostWrite 6#4 v s = { s with opc := v }

/-- Host write to `STATUS` (10_state.md R36): bit 1 clears `DONE`, bit 3 clears `OVR`; everything else stays,
`BUSY`, `FATAL` and `ERR` among it, whatever `BUSY` and `FATAL` are. -/
def Obligations.StatusWriteAcknowledges : Prop :=
  ∀ (s : State) (v : Word),
    (hostWrite 1#4 v s).status.done = (if v.getLsbD 1 then false else s.status.done) ∧
    (hostWrite 1#4 v s).status.ovr = (if v.getLsbD 3 then false else s.status.ovr) ∧
    (hostWrite 1#4 v s).status.busy = s.status.busy ∧ (hostWrite 1#4 v s).status.fatal = s.status.fatal ∧
    (hostWrite 1#4 v s).status.err = s.status.err ∧
    hostWrite 1#4 v s = { s with status := (hostWrite 1#4 v s).status }

/-- A write to a read-only register or a reserved index is ignored and a read of a reserved index returns 0
(20_memory.md R65). -/
def Obligations.ReservedAndReadOnlyIndices : Prop :=
  ∀ (s : State) (idx : RegIdx) (v : Word),
    (7 ≤ idx.toNat → hostWrite idx v s = s) ∧ (13 ≤ idx.toNat → hostRead idx s = 0#32)

/-- `HostRead` (20_memory.md R61): the value of each index, in every state; the transaction changes no state
(only the port `h_rdata`). -/
def Obligations.HostReadReturnsRegister : Prop :=
  ∀ s : State,
    hostRead 0#4 s = s.cmd ∧
    hostRead 1#4 s = 0#24 ++ errCode s.status.err ++ BitVec.ofBool s.status.ovr
      ++ BitVec.ofBool s.status.fatal ++ BitVec.ofBool s.status.done ++ BitVec.ofBool s.status.busy ∧
    hostRead 2#4 s = 0#31 ++ BitVec.ofBool s.ie ∧
    hostRead 3#4 s = s.opaLo ∧ hostRead 4#4 s = s.opaHi ∧ hostRead 5#4 s = s.opb ∧
    hostRead 6#4 s = s.opc ∧ hostRead 7#4 s = s.res ∧ hostRead 8#4 s = s.kp.e ∧ hostRead 9#4 s = s.kp.d ∧
    hostRead 10#4 s = s.kp.n ∧ hostRead 11#4 s = s.kp.p ∧ hostRead 12#4 s = s.kp.q ∧
    hostRead 13#4 s = 0#32 ∧ hostRead 14#4 s = 0#32 ∧ hostRead 15#4 s = 0#32 ∧
    ∀ idx, hostTurn (.read idx) s = { s with hRdata := some (hostRead idx s) }

/-- The bits of `STATUS` as the host reads them (10_state.md R30, R35, 60_exceptions.md R206). -/
def Obligations.StatusWordLayout : Prop :=
  ∀ s : State, (hostRead 1#4 s).getLsbD 0 = s.status.busy ∧ (hostRead 1#4 s).getLsbD 1 = s.status.done ∧
    (hostRead 1#4 s).getLsbD 2 = s.status.fatal ∧ (hostRead 1#4 s).getLsbD 3 = s.status.ovr ∧
    (hostRead 1#4 s).toNat / 16 =
      (match s.status.err with
        | none => 0
        | some .primeExhausted => 1
        | some .inverseUndefined => 2
        | some .operandFault => 3
        | some .illegalCommand => 4
        | some .entropyUnavailable => 5)

/-- The reset state (10_state.md R42, 70_reset_and_hazards.md R231): every index of the window reads 0, `irq`
and `ent_req` are 0, no command is in flight, the working state is empty. -/
def Obligations.ResetStateReadsZero : Prop :=
  (∀ idx : RegIdx, hostRead idx State.reset = 0#32) ∧ irq State.reset = false ∧ entReq State.reset = false ∧
    State.reset.status.busy = false ∧ State.reset.work = none

/-- Reset during a command (R232), whatever the core was doing: the reset state follows, a host transaction on
that edge is ignored, and nothing of the stream is taken. That a reset is an entry of `turns` is the model's
own choice (log 2, log 13). -/
def Obligations.ResetAbandonsCommand : Prop :=
  ∀ (s : State) (ignored : Option HostTxn), nextTurn s = .reset ignored →
    ∃ t, step s = .next t ∧ (∀ idx : RegIdx, hostRead idx t = 0#32) ∧ t.work = none ∧ irq t = false ∧
      entReq t = false ∧ t.entropy = s.entropy ∧ t.turns = s.turns.after

/-- The interrupt line (60_exceptions.md R214): it follows `CTRL.IE` when a command completes, falls when
`DONE` is acknowledged and when the next command is accepted. -/
def Obligations.InterruptRaisedAndCleared : Prop :=
  ∀ s : State,
    (∀ (d : Dest) (r : Result), irq (complete d r s) = s.ie) ∧
    (∀ v : Word, v.getLsbD 1 = true → irq (hostWrite 1#4 v s) = false) ∧
    (∀ w : Word, s.status.busy = false → s.status.fatal = false → irq (hostWrite 0#4 w s) = false)

/-- Completion (60_exceptions.md R204): a command whose pseudocode has run to its end with its result
completes in one step: the destinations written, `BUSY` 0, `DONE` 1, `ERR` 0, nothing else. The commands that
draw nothing run to their end in that same step; which value each gives is in its own statement. -/
def Obligations.FinishedCommandCompletes : Prop :=
  ∀ s : State,
    (∀ (i : Instr) (v : Word), (i = .isprime ∨ i = .mrtest ∨ i = .getprime ∨ i = .uniform ∨ i = .range) →
      s.work = some (.finished (.res v)) → exec i s = .next (okRes v s)) ∧
    (∀ (i : Instr) (v : Word), (i = .isprime ∨ i = .mrtest ∨ i = .uniform ∨ i = .range) →
      s.work = none → firstProgress i s = .finished (.res v) → exec i s = .next (okRes v s)) ∧
    (∀ (i : Instr) (v : Word),
      (i = .encrypt ∨ i = .decrypt ∨ i = .modpow ∨ i = .gcd ∨ i = .modinv ∨ i = .sieve) →
      firstProgress i s = .finished (.res v) → exec i s = .next (okRes v s)) ∧
    (∀ k : Keypair, s.work = some (.finished (.keypair k)) → exec .keygen s = .next (okKeys k s))

/-! ## Modular Arithmetic and the Cipher Core -/

/-- MODPOW (42_modarith.md R151): `OperandFault` when the modulus is 0, else the mathematical power of the
64-bit base, from every state. -/
def Obligations.ModpowComputesPower : Prop :=
  decode 0x00000004#32 = .ok .modpow ∧ ∀ s : State,
    (s.opc = 0#32 → exec .modpow s = .next (errRes .operandFault s)) ∧
    (s.opc ≠ 0#32 → exec .modpow s =
      .next (okRes (word ((s.opaHi.toNat * 2 ^ 32 + s.opaLo.toNat) ^ s.opb.toNat % s.opc.toNat)) s))

/-- ENCRYPT (44_cipher.md R186): only bits 7:0 of `OPA_LO` are read; the power of the byte; `OperandFault`
when the modulus is 0. -/
def Obligations.EncryptComputesPower : Prop :=
  decode 0x00000002#32 = .ok .encrypt ∧ ∀ s : State,
    (s.opc = 0#32 → exec .encrypt s = .next (errRes .operandFault s)) ∧
    (s.opc ≠ 0#32 → exec .encrypt s =
      .next (okRes (word ((s.opaLo.toNat % 256) ^ s.opb.toNat % s.opc.toNat)) s))

/-- DECRYPT (R188, R187): the low 8 bits of the power of the cipher value, zero-extended. -/
def Obligations.DecryptComputesLowByte : Prop :=
  decode 0x00000003#32 = .ok .decrypt ∧ ∀ s : State,
    (s.opc = 0#32 → exec .decrypt s = .next (errRes .operandFault s)) ∧
    (s.opc ≠ 0#32 → exec .decrypt s =
      .next (okRes (word (s.opaLo.toNat ^ s.opb.toNat % s.opc.toNat % 256)) s))

/-- GCD (42_modarith.md R153): the greatest common divisor, from every state and every operand pair. -/
def Obligations.GcdComputesGcd : Prop :=
  decode 0x00000005#32 = .ok .gcd ∧ ∀ s : State, exec .gcd s = .next (okRes (word (Nat.gcd s.opaLo.toNat s.opb.toNat)) s)

/-- MODINV (R155): `OperandFault` when `b = 0`, then `InverseUndefined` when `gcd(a, b) ≠ 1`, else the
inverse: 0 for `b = 1`, and for `b ≥ 2` the `x` in [0, b) with `(a · x) mod b = 1` (R154, R157). -/
def Obligations.ModinvComputesInverse : Prop :=
  decode 0x00000006#32 = .ok .modinv ∧ ∀ s : State,
    (s.opb = 0#32 → exec .modinv s = .next (errRes .operandFault s)) ∧
    (s.opb ≠ 0#32 → Nat.gcd s.opaLo.toNat s.opb.toNat ≠ 1 →
      exec .modinv s = .next (errRes .inverseUndefined s)) ∧
    (s.opb ≠ 0#32 → Nat.gcd s.opaLo.toNat s.opb.toNat = 1 →
      ∃ x : Word, exec .modinv s = .next (okRes x s) ∧ x.toNat < s.opb.toNat ∧
        s.opaLo.toNat * x.toNat % s.opb.toNat = 1 % s.opb.toNat)

/-! ## RandomSource -/

/-- UNIFORM (40_random.md R103, R101): just accepted, `OperandFault` when `max = 0`, before any draw. At every
handshake: a word below `limit` gives `v mod max` (the handshake, then the completion); a word at or above
it is discarded and the command stays in its draw; `ent_fail` ends it with `EntropyUnavailable`; with
neither it waits. The entropy port as plain data is the model's own choice (log 3). -/
def Obligations.UniformDrawsValue : Prop :=
  ∀ s : State,
    (s.work = none → s.opaLo = 0#32 → exec .uniform s = .next (errRes .operandFault s)) ∧
    ((s.work = none ∨ s.work = some (.draw (.uniform s.opaLo))) → s.opaLo ≠ 0#32 →
      (∀ v : Word, s.entropy.now = ⟨false, true, v⟩ →
        v.toNat < 0xFFFFFFFF - 0xFFFFFFFF % s.opaLo.toNat →
        ∃ t, exec .uniform s = .next t ∧ exec .uniform t =
          .next (okRes (word (v.toNat % s.opaLo.toNat)) { s with entropy := s.entropy.after })) ∧
      (∀ v : Word, s.entropy.now = ⟨false, true, v⟩ →
        0xFFFFFFFF - 0xFFFFFFFF % s.opaLo.toNat ≤ v.toNat →
        exec .uniform s =
          .next { s with work := some (.draw (.uniform s.opaLo)), entropy := s.entropy.after }) ∧
      (∀ v : Word, s.entropy.now = ⟨false, false, v⟩ →
        exec .uniform s =
          .next { s with work := some (.draw (.uniform s.opaLo)), entropy := s.entropy.after }) ∧
      (s.entropy.now.fail = true →
        ∃ t, exec .uniform s = .next t ∧ exec .uniform t =
          .next (errRes .entropyUnavailable { s with entropy := s.entropy.after })))

/-- RANGE (R104, R102): just accepted, `OperandFault` when `b ≤ a`, before any draw. At every handshake: a word
below the limit of `uniform(b − a)` gives `a + (v mod (b − a))`; a word at or above it is discarded;
`ent_fail` ends it with `EntropyUnavailable`; with neither it waits. The entropy port as plain data is the
model's own choice (log 3). -/
def Obligations.RangeDrawsValue : Prop :=
  ∀ s : State,
    (s.work = none → s.opb.toNat ≤ s.opaLo.toNat → exec .range s = .next (errRes .operandFault s)) ∧
    ((s.work = none ∨ s.work = some (.draw (.range s.opaLo s.opb))) → s.opaLo.toNat < s.opb.toNat →
      (∀ v : Word, s.entropy.now = ⟨false, true, v⟩ →
        v.toNat < 0xFFFFFFFF - 0xFFFFFFFF % (s.opb.toNat - s.opaLo.toNat) →
        ∃ t, exec .range s = .next t ∧ exec .range t =
          .next (okRes (word (s.opaLo.toNat + v.toNat % (s.opb.toNat - s.opaLo.toNat)))
            { s with entropy := s.entropy.after })) ∧
      (∀ v : Word, s.entropy.now = ⟨false, true, v⟩ →
        0xFFFFFFFF - 0xFFFFFFFF % (s.opb.toNat - s.opaLo.toNat) ≤ v.toNat →
        exec .range s =
          .next { s with work := some (.draw (.range s.opaLo s.opb)), entropy := s.entropy.after }) ∧
      (∀ v : Word, s.entropy.now = ⟨false, false, v⟩ →
        exec .range s =
          .next { s with work := some (.draw (.range s.opaLo s.opb)), entropy := s.entropy.after }) ∧
      (s.entropy.now.fail = true →
        ∃ t, exec .range s = .next t ∧ exec .range t =
          .next (errRes .entropyUnavailable { s with entropy := s.entropy.after })))

/-- The rejection sampling is unbiased (R106): every residue is hit by the same number `limit div max` of
accepted words. -/
def Obligations.UniformIsUnbiased : Prop :=
  ∀ (max : Word) (k : Nat), max ≠ 0#32 → k < max.toNat →
    ((Finset.range (2 ^ 32)).filter
      (fun v => uniformAccepts max (word v) = true ∧ (uniformValue max (word v)).toNat = k)).card =
      uniformLimit max / max.toNat

/-- Every call of `uniform` inside a command meets its precondition (R105): from a state that meets the
invariant, a command inside a draw asks for `max ≥ 1`; `get_prime` asks for 128, a Miller–Rabin round for
`n − 3` with `n ≥ 5` (`n ≥ 1009` in ISPRIME), the key generator for `totient − 1` with `totient ≥ 17680`. -/
def Obligations.InternalDrawsMeetPrecondition : Prop :=
  ∀ (i : Instr) (s : State) (pt : Point), MachineInv s → current s = .ok i →
    mayRaise i .entropyUnavailable = true → s.work.getD (firstProgress i s) = .draw pt →
    1 ≤ pt.max.toNat ∧
    (∀ n sh d round, pt = .millerRabin n sh d round →
      pt.max.toNat = n.toNat - 3 ∧ 5 ≤ n.toNat ∧ (i = .isprime → 1009 ≤ n.toNat)) ∧
    (∀ k, (pt = .getPrime k ∨ pt = .keygenP k ∨ ∃ p, pt = .keygenQ p k) → pt.max = 128#32) ∧
    (∀ p q, pt = .keygenE p q → pt.max.toNat = (p.toNat - 1) * (q.toNat - 1) - 1 ∧
      17680 ≤ (p.toNat - 1) * (q.toNat - 1))

/-! ## Primality Engine -/

/-- The small-prime table (41_primality.md R120): 167 entries, ascending, exactly the primes 3 to 997. -/
def Obligations.PrimeTableIsOddPrimes : Prop :=
  primeTable.length = 167 ∧ primeTable.Pairwise (· < ·) ∧
    ∀ n : Nat, n ∈ primeTable ↔ (Nat.Prime n ∧ 3 ≤ n ∧ n ≤ 997)

/-- SIEVE (R127, R122), from every state: 1 for the primes 3 to 997; 0 for `n < 3` and every other `n` with
a prime factor up to 997, the even ones among them; 2 otherwise, and then `n ≥ 1009`. -/
def Obligations.SieveClassifies : Prop :=
  decode 0x00000008#32 = .ok .sieve ∧ ∀ s : State,
    (Nat.Prime s.opaLo.toNat → 3 ≤ s.opaLo.toNat → s.opaLo.toNat ≤ 997 →
      exec .sieve s = .next (okRes 1#32 s)) ∧
    ((s.opaLo.toNat < 3 ∨ ∃ t, Nat.Prime t ∧ t ≤ 997 ∧ t ∣ s.opaLo.toNat ∧ t ≠ s.opaLo.toNat) →
      exec .sieve s = .next (okRes 0#32 s)) ∧
    (3 ≤ s.opaLo.toNat → (∀ t, Nat.Prime t → t ≤ 997 → ¬ t ∣ s.opaLo.toNat) →
      exec .sieve s = .next (okRes 2#32 s) ∧ 1009 ≤ s.opaLo.toNat)

/-- ISPRIME where the sieve decides (R129, R132), just accepted: no word is drawn, whatever the entropy port
says, and the verdict is the one of the source's testable properties; 2 is rejected. -/
def Obligations.IsprimeDecidedBySieve : Prop :=
  ∀ s : State, s.work = none →
    (Nat.Prime s.opaLo.toNat → 3 ≤ s.opaLo.toNat → s.opaLo.toNat ≤ 997 →
      exec .isprime s = .next (okRes 1#32 s)) ∧
    ((s.opaLo.toNat < 3 ∨ ∃ t, Nat.Prime t ∧ t ≤ 997 ∧ t ∣ s.opaLo.toNat ∧ t ≠ s.opaLo.toNat) →
      exec .isprime s = .next (okRes 0#32 s))

/-- `decompose` (R123): for odd `n ≥ 3`, `2^s · d = n − 1` with `d` odd, `s ≥ 1`, and `s ≤ 31`. -/
def Obligations.DecomposeIsRight : Prop :=
  ∀ n : Word, 3 ≤ n.toNat → n.toNat % 2 = 1 →
    2 ^ (decompose n).1 * (decompose n).2.toNat = n.toNat - 1 ∧ (decompose n).2.toNat % 2 = 1 ∧
      1 ≤ (decompose n).1 ∧ (decompose n).1 ≤ 31

/-- The pass condition of a Miller–Rabin round in closed form (R124): with the normative `MR_R_END(s) = s − 1`,
which the machine uses, and with the alternative `s` (00_scope.md R6, 90_conflicts.md C1). -/
def Obligations.RoundPassesClosedForm : Prop :=
  ∀ (n d base : Word) (s : Nat), 5 ≤ n.toNat →
    (mrRoundPasses mrREnd n s d base = true ↔
      (base.toNat ^ d.toNat % n.toNat = 1 ∨
        ∃ r, r < s - 1 ∧ base.toNat ^ (d.toNat * 2 ^ r) % n.toNat = n.toNat - 1)) ∧
    (mrRoundPasses mrREndAlt n s d base = true ↔
      (base.toNat ^ d.toNat % n.toNat = 1 ∨
        ∃ r, r < s ∧ base.toNat ^ (d.toNat * 2 ^ r) % n.toNat = n.toNat - 1))

/-- MRTEST (R128, R124): just accepted, `OperandFault` for `n < 5` or even `n`. At every round, the first included:
an accepted word `v` gives the base `2 + (v mod (n − 3))`; a base that fails its round ends the test with 0; one
that passes goes on to the next round; and the tenth ends it with 1. The entropy port as plain data is the
model's own choice (log 3). -/
def Obligations.MrtestRounds : Prop :=
  ∀ (s : State) (n d v : Word) (sh round : Nat),
    (s.work = none → s.opaLo.toNat < 5 ∨ s.opaLo.toNat % 2 = 0 →
      exec .mrtest s = .next (errRes .operandFault s)) ∧
    ((s.work = none ∧ n = s.opaLo ∧ n.toNat % 2 = 1 ∧ decompose n = (sh, d) ∧ round = 1 ∨
        s.work = some (.draw (.millerRabin n sh d round))) →
      5 ≤ n.toNat → s.entropy.now = ⟨false, true, v⟩ →
      v.toNat < 0xFFFFFFFF - 0xFFFFFFFF % (n.toNat - 3) →
      (mrRoundPasses mrREnd n sh d (word (v.toNat % (n.toNat - 3) + 2)) = false →
        ∃ t, exec .mrtest s = .next t ∧
          exec .mrtest t = .next (okRes 0#32 { s with entropy := s.entropy.after })) ∧
      (mrRoundPasses mrREnd n sh d (word (v.toNat % (n.toNat - 3) + 2)) = true → round < 10 →
        exec .mrtest s = .next
          { s with work := some (.draw (.millerRabin n sh d (round + 1))), entropy := s.entropy.after }) ∧
      (mrRoundPasses mrREnd n sh d (word (v.toNat % (n.toNat - 3) + 2)) = true → round = 10 →
        ∃ t, exec .mrtest s = .next t ∧
          exec .mrtest t = .next (okRes 1#32 { s with entropy := s.entropy.after })))

/-- ISPRIME on an undecided `n` (R125, R129, R131): just accepted, at every round and at its end it steps exactly as
MRTEST does; and such an `n` is odd and at least 1009. -/
def Obligations.IsprimeRunsMillerRabin : Prop :=
  ∀ s : State,
    (s.work = none → sieve s.opaLo = .undecided →
      exec .isprime s = exec .mrtest s ∧ s.opaLo.toNat % 2 = 1 ∧ 1009 ≤ s.opaLo.toNat) ∧
    (∀ n sh d round, s.work = some (.draw (.millerRabin n sh d round)) → exec .isprime s = exec .mrtest s) ∧
    (∀ r, s.work = some (.finished r) → exec .isprime s = exec .mrtest s)

/-- GETPRIME at any attempt (R126, R130, R207): a word below 0xFFFFFF80 gives the candidate
`128 + (v mod 128)`; a prime candidate is the result; a rejected one goes on to the next attempt, and the
400th raises `PrimeGenerationExhausted`. The entropy port as plain data is the model's own choice (log 3). -/
def Obligations.GetprimeTriesCandidates : Prop :=
  ∀ (s : State) (attempt : Nat) (v : Word),
    ((s.work = none ∧ attempt = 1) ∨ s.work = some (.draw (.getPrime attempt))) →
    s.entropy.now = ⟨false, true, v⟩ → v.toNat < 0xFFFFFF80 →
    (Nat.Prime (128 + v.toNat % 128) →
      ∃ t, exec .getprime s = .next t ∧ exec .getprime t =
        .next (okRes (word (128 + v.toNat % 128)) { s with entropy := s.entropy.after })) ∧
    (¬ Nat.Prime (128 + v.toNat % 128) → attempt < 400 →
      exec .getprime s =
        .next { s with work := some (.draw (.getPrime (attempt + 1))), entropy := s.entropy.after }) ∧
    (¬ Nat.Prime (128 + v.toNat % 128) → attempt = 400 →
      ∃ t, exec .getprime s = .next t ∧
        exec .getprime t = .next (errRes .primeExhausted { s with entropy := s.entropy.after }))

/-- No Miller–Rabin round runs inside `get_prime` (R126, R131): for every candidate in [128, 255] the sieve
alone decides, and it accepts exactly the primes. -/
def Obligations.CandidatesDecidedBySieve : Prop :=
  ∀ c : Word, 128 ≤ c.toNat → c.toNat ≤ 255 →
    (Nat.Prime c.toNat → sieve c = .prime) ∧ (¬ Nat.Prime c.toNat → sieve c = .rejected)

/-! ## Key Generator -/

/-- KEYGEN from its accept, when the first words give two distinct primes and a coprime exponent (R171,
R172): four core steps later the five registers hold the Keypair, `RES` and the rest are as before, and
three words are consumed. The entropy port as plain data is the model's own choice (log 3). -/
def Obligations.KeygenBuildsKeypair : Prop :=
  ∀ (s : State) (v w x : Word), s.work = none →
    s.entropy.presents [⟨false, true, v⟩, ⟨false, true, w⟩, ⟨false, true, x⟩] →
    v.toNat < 0xFFFFFF80 → w.toNat < 0xFFFFFF80 →
    Nat.Prime (128 + v.toNat % 128) → Nat.Prime (128 + w.toNat % 128) → v.toNat % 128 ≠ w.toNat % 128 →
    x.toNat < 0xFFFFFFFF - 0xFFFFFFFF % ((127 + v.toNat % 128) * (127 + w.toNat % 128) - 1) →
    Nat.gcd (x.toNat % ((127 + v.toNat % 128) * (127 + w.toNat % 128) - 1) + 1)
      ((127 + v.toNat % 128) * (127 + w.toNat % 128)) = 1 →
    ∃ (d : Word) (t : State), execTimes 3 .keygen s = .next t ∧
      exec .keygen t = .next (okKeys
        ⟨word (x.toNat % ((127 + v.toNat % 128) * (127 + w.toNat % 128) - 1) + 1), d,
          word ((128 + v.toNat % 128) * (128 + w.toNat % 128)),
          word (128 + v.toNat % 128), word (128 + w.toNat % 128)⟩
        { s with entropy := s.entropy.afterMany 3 }) ∧
      1 ≤ d.toNat ∧ d.toNat < (127 + v.toNat % 128) * (127 + w.toNat % 128) ∧
      (x.toNat % ((127 + v.toNat % 128) * (127 + w.toNat % 128) - 1) + 1) * d.toNat
        % ((127 + v.toNat % 128) * (127 + w.toNat % 128)) = 1

/-- The three retry loops of KEYGEN (R171): a rejected candidate for `p` or `q` is one attempt of its own
budget of 400; `q = p` starts a new `get_prime` call; a non-coprime exponent candidate is drawn again. The
entropy port as plain data is the model's own choice (log 3). -/
def Obligations.KeygenRetries : Prop :=
  ∀ (s : State) (p q v : Word) (attempt : Nat), s.entropy.now = ⟨false, true, v⟩ →
    (s.work = some (.draw (.keygenP attempt)) → v.toNat < 0xFFFFFF80 → ¬ Nat.Prime (128 + v.toNat % 128) →
      (attempt < 400 → exec .keygen s =
        .next { s with work := some (.draw (.keygenP (attempt + 1))), entropy := s.entropy.after }) ∧
      (attempt = 400 →
        execTimes 2 .keygen s = .next (errKeys .primeExhausted { s with entropy := s.entropy.after }))) ∧
    (s.work = some (.draw (.keygenQ p attempt)) → v.toNat < 0xFFFFFF80 →
      ¬ Nat.Prime (128 + v.toNat % 128) →
      (attempt < 400 → exec .keygen s =
        .next { s with work := some (.draw (.keygenQ p (attempt + 1))), entropy := s.entropy.after }) ∧
      (attempt = 400 →
        execTimes 2 .keygen s = .next (errKeys .primeExhausted { s with entropy := s.entropy.after }))) ∧
    (s.work = some (.draw (.keygenQ p attempt)) → v.toNat < 0xFFFFFF80 →
      Nat.Prime (128 + v.toNat % 128) → p.toNat = 128 + v.toNat % 128 →
      exec .keygen s = .next { s with work := some (.draw (.keygenQ p 1)), entropy := s.entropy.after }) ∧
    (s.work = some (.draw (.keygenE p q)) → GenPrime p → GenPrime q →
      v.toNat < 0xFFFFFFFF - 0xFFFFFFFF % ((p.toNat - 1) * (q.toNat - 1) - 1) →
      Nat.gcd (v.toNat % ((p.toNat - 1) * (q.toNat - 1) - 1) + 1) ((p.toNat - 1) * (q.toNat - 1)) ≠ 1 →
      exec .keygen s = .next { s with work := some (.draw (.keygenE p q)), entropy := s.entropy.after })

/-! ## Commands against the pseudocode over the whole stream -/

/-- Every command agrees with its pseudocode read as a function of operands and entropy words (10_state.md
R39, 20_memory.md R69): if the pseudocode ends with outcome `r` on exactly the words `ws`, and the next
handshakes present those words, the machine completes with `r` after one step a word and the completion step,
for all twelve and for every source, the free one included. The entropy port as plain data is the model's own
choice (log 3). -/
def Obligations.CommandFollowsPseudocode : Prop :=
  ∀ (i : Instr) (s : State) (ws : List Word) (r : Result), s.work = none →
    s.entropy.presents (ws.map presentWord) → commandOn i s ws = some (r, []) →
    execTimes (ws.length + 1) i s =
      .next (complete (destOf i) r { s with entropy := s.entropy.afterMany ws.length })

/-- Waiting (20_memory.md R68, 60_exceptions.md R219, 70_reset_and_hazards.md R237 (a)). Inside a draw, with
`ent_fail` and `ent_valid` low, any of the six drawing commands stays at that draw, at its round and attempt, and
nothing else changes. So a command whose words end before its pseudocode does, and to which nothing more is
ever presented, stays for ever at the draw where the last word left it, with no register or flag changed. The
entropy port as plain data is the model's own choice (log 3). -/
def Obligations.StarvedCommandWaits : Prop :=
  (∀ (i : Instr) (s : State) (pt : Point), mayRaise i .entropyUnavailable = true →
    s.work.getD (firstProgress i s) = .draw pt → s.entropy.now.fail = false → s.entropy.now.valid = false →
    exec i s = .next { s with work := some (.draw pt), entropy := s.entropy.after }) ∧
  (∀ (i : Instr) (s : State) (ws : List Word), s.work = none →
    s.entropy.presents (ws.map presentWord) → commandOn i s ws = none →
    (∀ j, ws.length ≤ j → (s.entropy.pinsAt j).fail = false ∧ (s.entropy.pinsAt j).valid = false) →
    ∃ pt u, execTimes ws.length i s = .next u ∧ u.work.getD (firstProgress i s) = .draw pt ∧
      ∀ k, execTimes (ws.length + (k + 1)) i s = .next
        { s with work := some (.draw pt), entropy := s.entropy.afterMany (ws.length + (k + 1)) })

/-- A failing entropy source ends the command (R210, R205): when the words end inside a draw and `ent_fail`
is presented, whatever `ent_valid` says, the command completes with `ENTROPY_UNAVAILABLE`, its
destinations zeroed and `FATAL` set, and takes no further word. The entropy port as plain data is the model's
own choice (log 3). -/
def Obligations.EntropyFailureIsFatal : Prop :=
  ∀ (i : Instr) (s : State) (ws : List Word) (pins : EntPins), s.work = none →
    s.entropy.presents (ws.map presentWord ++ [pins]) → pins.fail = true → commandOn i s ws = none →
    execTimes (ws.length + 2) i s = .next
      (if i = .keygen then errKeys .entropyUnavailable { s with entropy := s.entropy.afterMany (ws.length + 1) }
       else errRes .entropyUnavailable { s with entropy := s.entropy.afterMany (ws.length + 1) })

/-- Rejected words for ever (R237 (b)): while the source presents 0xFFFFFFFF at every handshake, a command
inside a draw never leaves it, whatever it is. The entropy port as plain data is the model's own choice
(log 3). -/
def Obligations.RejectedWordsForEver : Prop :=
  ∀ (i : Instr) (s : State) (pt : Point) (k : Nat),
    s.work.getD (firstProgress i s) = .draw pt → mayRaise i .entropyUnavailable = true →
    (∀ j, s.entropy.pinsAt j = ⟨false, true, 0xFFFFFFFF#32⟩) →
    execTimes (k + 1) i s =
      .next { s with work := some (.draw pt), entropy := s.entropy.afterMany (k + 1) }

/-- The two unbounded loops of KEYGEN (R237 (c), (d), R171): a source whose every word gives `q = p`, or whose
every word gives an exponent that is not coprime to the totient, keeps the command in flight for ever. The
entropy port as plain data is the model's own choice (log 3). -/
def Obligations.KeygenLoopsForEver : Prop :=
  ∀ (s : State) (k : Nat),
    (∀ p : Word, GenPrime p → s.work = some (.draw (.keygenQ p 1)) →
      (∀ j, ∃ v : Word, s.entropy.pinsAt j = ⟨false, true, v⟩ ∧ v.toNat < 0xFFFFFF80 ∧
        128 + v.toNat % 128 = p.toNat) →
      execTimes k .keygen s = .next { s with entropy := s.entropy.afterMany k }) ∧
    (∀ p q : Word, GenPrime p → GenPrime q → s.work = some (.draw (.keygenE p q)) →
      (∀ j, ∃ v : Word, s.entropy.pinsAt j = ⟨false, true, v⟩ ∧
        v.toNat < 0xFFFFFFFF - 0xFFFFFFFF % ((p.toNat - 1) * (q.toNat - 1) - 1) ∧
        Nat.gcd (v.toNat % ((p.toNat - 1) * (q.toNat - 1) - 1) + 1) ((p.toNat - 1) * (q.toNat - 1)) ≠ 1) →
      execTimes k .keygen s = .next { s with entropy := s.entropy.afterMany k })

/-! ## Errors -/

/-- The complete list of operand faults (60_exceptions.md R203): each ends the command just accepted with
`OPERAND_FAULT` in one step, with no entropy taken; and from a state that meets the invariant no command
ends so except at its first step on operands of the list. -/
def Obligations.OperandFaultList : Prop :=
  (∀ s : State, s.work = none →
    (s.opc = 0#32 → exec .modpow s = .next (errRes .operandFault s) ∧
      exec .encrypt s = .next (errRes .operandFault s) ∧ exec .decrypt s = .next (errRes .operandFault s)) ∧
    (s.opb = 0#32 → exec .modinv s = .next (errRes .operandFault s)) ∧
    (s.opaLo = 0#32 → exec .uniform s = .next (errRes .operandFault s)) ∧
    (s.opb.toNat ≤ s.opaLo.toNat → exec .range s = .next (errRes .operandFault s)) ∧
    (s.opaLo.toNat < 5 ∨ s.opaLo.toNat % 2 = 0 → exec .mrtest s = .next (errRes .operandFault s))) ∧
  (∀ (i : Instr) (s t : State), MachineInv s → s.status.busy = true → current s = .ok i →
    exec i s = .next t → t.status.busy = false → t.status.err = some .operandFault →
    s.work = none ∧
      ((i = .modpow ∨ i = .encrypt ∨ i = .decrypt) ∧ s.opc = 0#32 ∨ i = .modinv ∧ s.opb = 0#32 ∨
      i = .uniform ∧ s.opaLo = 0#32 ∨ i = .range ∧ s.opb.toNat ≤ s.opaLo.toNat ∨
      i = .mrtest ∧ (s.opaLo.toNat < 5 ∨ s.opaLo.toNat % 2 = 0)))

/-- Which command raises which error (R206, column "raised by"): from a state that meets the invariant, a
command that completes leaves `NONE` or an error its row names. -/
def Obligations.ErrorsOfEachCommand : Prop :=
  ∀ (i : Instr) (s t : State), MachineInv s → s.status.busy = true → current s = .ok i → exec i s = .next t →
    t.status.busy = false → t.status.err = none ∨ ∃ e, t.status.err = some e ∧ mayRaise i e = true

/-- An error completion (R205): one step; destinations zeroed, `BUSY` 0, `DONE` 1, the code, `FATAL` for
`EntropyUnavailable`; every register that is no destination, and the entropy stream, as before. It is what
`raise` does when a draw has led to it, what every completion with an error is, and what an illegal word
(no destination) gets. -/
def Obligations.ErrorCompletionZeroesDestinations : Prop :=
  (∀ (i : Instr) (s : State) (e : ErrKind), mayRaise i .entropyUnavailable = true →
    s.work = some (.finished (.raise e)) →
    exec i s = .next (if i = .keygen then errKeys e s else errRes e s)) ∧
  (∀ (i : Instr) (s t : State) (e : ErrKind), s.status.busy = true → exec i s = .next t →
    t.status.busy = false → t.status.err = some e →
    t = (if i = .keygen then errKeys e s else errRes e s)) ∧
  (∀ (s : State) (x : DecodeError), s.status.busy = true → decode s.cmd = .error x →
    coreStep s = .next { s with work := none, status := errStatus .illegalCommand s.status })

/-- The fatal state (10_state.md R33, 60_exceptions.md R211): from a state that meets the invariant, no step but
a reset leaves it, no command starts, and `ERR`, `RES`, `KP_*` and `CMD` stay. -/
def Obligations.FatalUntilReset : Prop :=
  ∀ s t : State, MachineInv s → s.status.fatal = true → (∀ x, nextTurn s ≠ .reset x) → step s = .next t →
    t.status.fatal = true ∧ t.status.busy = false ∧ t.status.err = some .entropyUnavailable ∧
      t.cmd = s.cmd ∧ t.res = s.res ∧ t.kp = s.kp

/-! ## What each command leaves unchanged -/

/-- Frame of the six commands that draw nothing: a step completes them, and writes only `RES`, `BUSY`,
`DONE`, `ERR` and the working state (10_state.md R27, R39); no entropy is taken. -/
def Obligations.FrameNonDrawing : Prop :=
  ∀ (i : Instr) (s t : State),
    (i = .encrypt ∨ i = .decrypt ∨ i = .modpow ∨ i = .gcd ∨ i = .modinv ∨ i = .sieve) →
    exec i s = .next t →
    t = { s with res := t.res, work := none, status := { s.status with busy := false, done := true, err := t.status.err } }

/-- Frame of the five drawing commands with destination `RES`, from a state whose working state fits: a step
is a handshake, which changes only the working state and the entropy stream, or the completion, which
changes only `RES`, `STATUS` and the working state; `OVR`, `CMD`, `CTRL`, the operands and `KP_*` never. That
each handshake uses one entry of the port, a waiting one too, is the model's own choice (log 3). -/
def Obligations.FrameDrawing : Prop :=
  ∀ (i : Instr) (s t : State),
    (i = .isprime ∨ i = .mrtest ∨ i = .getprime ∨ i = .uniform ∨ i = .range) → WorkOk i s →
    exec i s = .next t →
    t = { s with work := t.work, entropy := s.entropy.after } ∨
    t = { s with res := t.res, work := none, status := { s.status with busy := false, done := true, err := t.status.err, fatal := t.status.fatal } }

/-- Frame of KEYGEN, from a state whose working state fits: a handshake, or the completion, which changes
only `KP_*`, `STATUS` and the working state; `RES` never (R27, R172). That each handshake uses one entry of the
port, a waiting one too, is the model's own choice (log 3). -/
def Obligations.FrameKeygen : Prop :=
  ∀ s t : State, WorkOk .keygen s → exec .keygen s = .next t →
    t = { s with work := t.work, entropy := s.entropy.after } ∨
    t = { s with kp := t.kp, work := none, status := { s.status with busy := false, done := true, err := t.status.err, fatal := t.status.fatal } }

/-! ## Whole-machine rules -/

/-- While `BUSY` stays 1 the destination registers keep the values they had (10_state.md R31), whoever moves. -/
def Obligations.BusyKeepsDestinations : Prop :=
  ∀ s t : State, step s = .next t → s.status.busy = true → t.status.busy = true →
    t.res = s.res ∧ t.kp = s.kp

/-- Nothing the host does after the accept can change the command in flight (20_memory.md R73): a host turn
on a busy core leaves the word, the operands, the working state, the destinations and the stream. -/
def Obligations.HostCannotDisturbCommand : Prop :=
  ∀ (s t : State) (x : HostTxn), s.status.busy = true → nextTurn s = .host x → step s = .next t →
    t.status.busy = true ∧ t.cmd = s.cmd ∧ t.opaLo = s.opaLo ∧ t.opaHi = s.opaHi ∧ t.opb = s.opb ∧
      t.opc = s.opc ∧ t.work = s.work ∧ t.res = s.res ∧ t.kp = s.kp ∧ t.entropy = s.entropy

/-- Only KEYGEN writes the Keypair registers (10_state.md R26): a step other than a reset that changes them,
from a state that meets the invariant, is the completion of a KEYGEN. -/
def Obligations.KeypairWrittenOnlyByKeygen : Prop :=
  ∀ s t : State, MachineInv s → (∀ x, nextTurn s ≠ .reset x) → step s = .next t → t.kp ≠ s.kp →
    s.status.busy = true ∧ t.status.busy = false ∧ t.status.done = true ∧ decode s.cmd = .ok .keygen

/-- `ent_req` (10_state.md R44, 60_exceptions.md R219) is 1 exactly while `BUSY = 1` and one of the six drawing
commands stands inside a draw; and the entropy port is looked at only then (20_memory.md R68): with
`ent_req = 0` no step takes anything from the stream, with `ent_req = 1` a core turn does one handshake. The
entropy port as plain data is the model's own choice (log 3). -/
def Obligations.EntropyTakenOnlyInDraw : Prop :=
  (∀ s : State, entReq s = true ↔ s.status.busy = true ∧ ∃ i pt,
    (i = .keygen ∨ i = .isprime ∨ i = .mrtest ∨ i = .getprime ∨ i = .uniform ∨ i = .range) ∧
    decode s.cmd = .ok i ∧ s.work.getD (firstProgress i s) = .draw pt) ∧
  (∀ s t : State, entReq s = false → step s = .next t → t.entropy = s.entropy) ∧
  (∀ s t : State, entReq s = true → nextTurn s = .core → step s = .next t → t.entropy = s.entropy.after)

/-- `DONE` is set only by a completion (10_state.md R32), and `OVR` only by an ignored host write to `CMD` or
an operand register (R34). -/
def Obligations.FlagsSetOnlyAsStated : Prop :=
  ∀ s t : State, step s = .next t →
    (t.status.done = true → s.status.done = false → s.status.busy = true ∧ t.status.busy = false) ∧
    (t.status.ovr = true → s.status.ovr = false →
      ∃ idx v, nextTurn s = .host (.write idx v) ∧
        ((s.status.busy = true ∧ (idx = 0#4 ∨ idx = 3#4 ∨ idx = 4#4 ∨ idx = 5#4 ∨ idx = 6#4)) ∨
         (s.status.fatal = true ∧ idx = 0#4)))

/-! ## Invariants and headline results -/

/-- The reset state meets the invariant. -/
def Obligations.ResetMeetsInvariant : Prop := MachineInv State.reset

/-- Every step of every agent keeps the invariant. -/
def Obligations.StepKeepsInvariant : Prop :=
  ∀ s t : State, MachineInv s → step s = .next t → MachineInv t

/-- After a KEYGEN that completes with `ERR = 0` the Keypair registers satisfy the source's invariant
(43_keygen.md R173), for every entropy stream. -/
def Obligations.KeygenLeavesValidKeypair : Prop :=
  ∀ s t : State, MachineInv s → s.status.busy = true → decode s.cmd = .ok .keygen → exec .keygen s = .next t →
    t.status.busy = false → t.status.err = none →
    t.kp.n.toNat = t.kp.p.toNat * t.kp.q.toNat ∧ t.kp.p ≠ t.kp.q ∧
    Nat.Prime t.kp.p.toNat ∧ 128 ≤ t.kp.p.toNat ∧ t.kp.p.toNat ≤ 255 ∧
    Nat.Prime t.kp.q.toNat ∧ 128 ≤ t.kp.q.toNat ∧ t.kp.q.toNat ≤ 255 ∧
    t.kp.e.toNat * t.kp.d.toNat % ((t.kp.p.toNat - 1) * (t.kp.q.toNat - 1)) = 1 ∧
    Nat.gcd t.kp.e.toNat ((t.kp.p.toNat - 1) * (t.kp.q.toNat - 1)) = 1

/-- The bounds of R174 on the Keypair that a KEYGEN completing with `ERR = 0` leaves. -/
def Obligations.KeypairBounds : Prop :=
  ∀ s t : State, MachineInv s → s.status.busy = true → decode s.cmd = .ok .keygen → exec .keygen s = .next t →
    t.status.busy = false → t.status.err = none →
    131 ≤ t.kp.p.toNat ∧ t.kp.p.toNat ≤ 251 ∧ t.kp.p.toNat ∈ primeTable ∧
    131 ≤ t.kp.q.toNat ∧ t.kp.q.toNat ≤ 251 ∧ t.kp.q.toNat ∈ primeTable ∧
    17947 ≤ t.kp.n.toNat ∧ t.kp.n.toNat ≤ 60491 ∧
    17680 ≤ (t.kp.p.toNat - 1) * (t.kp.q.toNat - 1) ∧ (t.kp.p.toNat - 1) * (t.kp.q.toNat - 1) ≤ 60000 ∧
    1 ≤ t.kp.e.toNat ∧ t.kp.e.toNat < (t.kp.p.toNat - 1) * (t.kp.q.toNat - 1) ∧
    1 ≤ t.kp.d.toNat ∧ t.kp.d.toNat < (t.kp.p.toNat - 1) * (t.kp.q.toNat - 1) ∧
    t.kp.p.toNat < 65536 ∧ t.kp.q.toNat < 65536 ∧ t.kp.n.toNat < 65536 ∧ t.kp.e.toNat < 65536 ∧
    t.kp.d.toNat < 65536

/-- The round trip (44_cipher.md R189): for every generated Keypair and every byte, DECRYPT undoes ENCRYPT,
with the public exponent first and with the private one first; and the values of the source's scenario. -/
def Obligations.CipherRoundTrip : Prop :=
  (∀ (k : Keypair) (b : BitVec 8), KeypairOk k →
    decryptCipher (encryptByte b k.e k.n) k.d k.n = b ∧
      decryptCipher (encryptByte b k.d k.n) k.e k.n = b) ∧
  modularInverse 7#32 24960#32 = some 14263#32 ∧
  encryptByte 65#8 7#32 25283#32 = 22969#32 ∧ decryptCipher 22969#32 14263#32 25283#32 = 65#8 ∧
  encryptByte 65#8 14263#32 25283#32 = 18526#32 ∧ decryptCipher 18526#32 7#32 25283#32 = 65#8
end

