-- ==== Sys2Proof/Laws/Environment.lean ====
section
/-! SUPPORT. The small lemmas of feeds, of the entropy port and of the schedule. -/
namespace Sys2Proof.Machine

section
variable {α : Type} (idle x : α) (source : Nat → α) (xs : List α) (r : Tail α) (f : Feed α) (k m n : Nat)

@[simp] theorem Feed.head_cons : Feed.head idle source ⟨x :: xs, r⟩ = x := rfl
@[simp] theorem Feed.after_cons : Feed.after ⟨x :: xs, r⟩ = ⟨xs, r⟩ := rfl
@[simp] theorem Feed.head_again : Feed.head idle source ⟨[], .again (x :: xs)⟩ = x := rfl
@[simp] theorem Feed.after_again : Feed.after ⟨[], .again (x :: xs)⟩ = ⟨xs, .again (x :: xs)⟩ := rfl
@[simp] theorem Feed.head_nothing : Feed.head idle source ⟨[], .again []⟩ = idle := rfl
@[simp] theorem Feed.after_nothing : Feed.after (⟨[], .again []⟩ : Feed α) = ⟨[], .again []⟩ := rfl
@[simp] theorem Feed.head_free : Feed.head idle source ⟨[], .free k⟩ = source k := rfl
@[simp] theorem Feed.after_free : Feed.after (⟨[], .free k⟩ : Feed α) = ⟨[], .free (k + 1)⟩ := rfl
@[simp] theorem Feed.head_push : Feed.head idle source (f.push x) = x := rfl
@[simp] theorem Feed.after_push : (f.push x).after = f := rfl
@[simp] theorem Feed.afterMany_zero : f.afterMany 0 = f := rfl
@[simp] theorem Feed.afterMany_after : f.after.afterMany n = f.afterMany (n + 1) := rfl

/-- Using `m` entries and then `n` more. -/
theorem Feed.afterMany_add : (f.afterMany m).afterMany n = f.afterMany (m + n) := by
  induction m generalizing f with
  | zero => simp
  | succ m ih => rw [← Feed.afterMany_after, ih, Feed.afterMany_after]; congr 1; omega

/-- The last of `n + 1` entries used. -/
theorem Feed.after_afterMany : (f.afterMany n).after = f.afterMany (n + 1) := Feed.afterMany_add f n 1

/-- A feed whose free part has begun is free for ever (20_memory.md R69: no law). -/
theorem Feed.afterMany_free : Feed.afterMany n (⟨[], .free k⟩ : Feed α) = ⟨[], .free (k + n)⟩ := by
  induction n generalizing k with
  | zero => rfl
  | succ n ih => rw [← Feed.afterMany_after, Feed.after_free, ih]; congr 2; omega

/-- A feed with nothing to come stays so. -/
theorem Feed.afterMany_nothing : Feed.afterMany n (⟨[], .again []⟩ : Feed α) = ⟨[], .again []⟩ := by
  induction n with
  | zero => rfl
  | succ n ih => rw [← Feed.after_afterMany, ih, Feed.after_nothing]

/-- The entries listed ahead, used up. -/
theorem Feed.afterMany_ahead : Feed.afterMany xs.length ⟨xs, r⟩ = ⟨[], r⟩ := by
  induction xs with
  | nil => rfl
  | cons x xs ih => exact ih

end

section
variable (e : EntropyPort) (p : EntPins) (ps qs : List EntPins) (k : Nat)

@[simp] theorem EntropyPort.presents_nil : e.presents [] := trivial
@[simp] theorem EntropyPort.presents_cons : e.presents (p :: ps) ↔ e.now = p ∧ EntropyPort.presents e.after ps :=
  Iff.rfl

/-- Two lists of handshakes one after the other. -/
theorem EntropyPort.presents_append :
    e.presents (ps ++ qs) ↔ e.presents ps ∧ EntropyPort.presents (e.afterMany ps.length) qs := by
  induction ps generalizing e with
  | nil => simp
  | cons p ps ih => simp [ih, and_assoc]

/-- The entries listed ahead are presented, whatever follows them. -/
theorem EntropyPort.presents_ahead (r : Tail EntPins) : EntropyPort.presents ⟨ps ++ qs, r⟩ ps := by
  induction ps with
  | nil => trivial
  | cons p ps ih => exact ⟨rfl, ih⟩

@[simp] theorem EntropyPort.pinsAt_zero : e.pinsAt 0 = e.now := rfl
@[simp] theorem EntropyPort.pinsAt_after : EntropyPort.pinsAt e.after k = e.pinsAt (k + 1) := rfl

/-- The free stream: handshake after handshake of the environment's own source. -/
theorem EntropyPort.pinsAt_free (n : Nat) :
    EntropyPort.pinsAt ⟨[], .free n⟩ k = Config.freePins (n + k) := by
  rw [EntropyPort.pinsAt, Feed.afterMany_free]
  rfl

end

/-- The turn after placing a command word is the core's. -/
@[simp] theorem nextTurn_loadCommand (w : Word) (s : State) : nextTurn (loadCommand w s) = .core := rfl

/-- With no turn to come the core moves. -/
theorem nextTurn_nothing (s : State) (h : s.turns = ⟨[], .again []⟩) : nextTurn s = .core := by
  simp [nextTurn, h]

end Sys2Proof.Machine
end

