-- ==== Sys2Proof/Laws/State.lean ====
section
/-! SUPPORT. What each shared update of the state does to each field: one lemma a field, true by `rfl`. -/
namespace Sys2Proof.Machine

section
variable (w : Word) (s : State)
@[simp] theorem accept_cmd : (accept w s).cmd = w := rfl
@[simp] theorem accept_status : (accept w s).status = { s.status with busy := true, done := false, err := none } := rfl
@[simp] theorem accept_ie : (accept w s).ie = s.ie := rfl
@[simp] theorem accept_opaLo : (accept w s).opaLo = s.opaLo := rfl
@[simp] theorem accept_opaHi : (accept w s).opaHi = s.opaHi := rfl
@[simp] theorem accept_opb : (accept w s).opb = s.opb := rfl
@[simp] theorem accept_opc : (accept w s).opc = s.opc := rfl
@[simp] theorem accept_res : (accept w s).res = s.res := rfl
@[simp] theorem accept_kp : (accept w s).kp = s.kp := rfl
@[simp] theorem accept_work : (accept w s).work = none := rfl
@[simp] theorem accept_hRdata : (accept w s).hRdata = s.hRdata := rfl
@[simp] theorem accept_turns : (accept w s).turns = s.turns := rfl
@[simp] theorem accept_entropy : (accept w s).entropy = s.entropy := rfl
end

section
variable (e : Option ErrKind) (s : State)
@[simp] theorem settle_cmd : (settle e s).cmd = s.cmd := rfl
@[simp] theorem settle_status : (settle e s).status = { s.status with busy := false, done := true, err := e, fatal := s.status.fatal || e == some .entropyUnavailable } := rfl
@[simp] theorem settle_ie : (settle e s).ie = s.ie := rfl
@[simp] theorem settle_opaLo : (settle e s).opaLo = s.opaLo := rfl
@[simp] theorem settle_opaHi : (settle e s).opaHi = s.opaHi := rfl
@[simp] theorem settle_opb : (settle e s).opb = s.opb := rfl
@[simp] theorem settle_opc : (settle e s).opc = s.opc := rfl
@[simp] theorem settle_res : (settle e s).res = s.res := rfl
@[simp] theorem settle_kp : (settle e s).kp = s.kp := rfl
@[simp] theorem settle_work : (settle e s).work = none := rfl
@[simp] theorem settle_hRdata : (settle e s).hRdata = s.hRdata := rfl
@[simp] theorem settle_turns : (settle e s).turns = s.turns := rfl
@[simp] theorem settle_entropy : (settle e s).entropy = s.entropy := rfl
end

section
variable (s : State)
@[simp] theorem dropWrite_cmd : (dropWrite s).cmd = s.cmd := rfl
@[simp] theorem dropWrite_status : (dropWrite s).status = { s.status with ovr := true } := rfl
@[simp] theorem dropWrite_ie : (dropWrite s).ie = s.ie := rfl
@[simp] theorem dropWrite_opaLo : (dropWrite s).opaLo = s.opaLo := rfl
@[simp] theorem dropWrite_opaHi : (dropWrite s).opaHi = s.opaHi := rfl
@[simp] theorem dropWrite_opb : (dropWrite s).opb = s.opb := rfl
@[simp] theorem dropWrite_opc : (dropWrite s).opc = s.opc := rfl
@[simp] theorem dropWrite_res : (dropWrite s).res = s.res := rfl
@[simp] theorem dropWrite_kp : (dropWrite s).kp = s.kp := rfl
@[simp] theorem dropWrite_work : (dropWrite s).work = s.work := rfl
@[simp] theorem dropWrite_hRdata : (dropWrite s).hRdata = s.hRdata := rfl
@[simp] theorem dropWrite_turns : (dropWrite s).turns = s.turns := rfl
@[simp] theorem dropWrite_entropy : (dropWrite s).entropy = s.entropy := rfl
end

section
variable (v : Word) (s : State)
@[simp] theorem acknowledge_cmd : (acknowledge v s).cmd = s.cmd := rfl
@[simp] theorem acknowledge_status : (acknowledge v s).status = { s.status with done := s.status.done && !v.getLsbD 1, ovr := s.status.ovr && !v.getLsbD 3 } := rfl
@[simp] theorem acknowledge_ie : (acknowledge v s).ie = s.ie := rfl
@[simp] theorem acknowledge_opaLo : (acknowledge v s).opaLo = s.opaLo := rfl
@[simp] theorem acknowledge_opaHi : (acknowledge v s).opaHi = s.opaHi := rfl
@[simp] theorem acknowledge_opb : (acknowledge v s).opb = s.opb := rfl
@[simp] theorem acknowledge_opc : (acknowledge v s).opc = s.opc := rfl
@[simp] theorem acknowledge_res : (acknowledge v s).res = s.res := rfl
@[simp] theorem acknowledge_kp : (acknowledge v s).kp = s.kp := rfl
@[simp] theorem acknowledge_work : (acknowledge v s).work = s.work := rfl
@[simp] theorem acknowledge_hRdata : (acknowledge v s).hRdata = s.hRdata := rfl
@[simp] theorem acknowledge_turns : (acknowledge v s).turns = s.turns := rfl
@[simp] theorem acknowledge_entropy : (acknowledge v s).entropy = s.entropy := rfl
end

section
variable (v : Word) (s : State)
@[simp] theorem writeCtrl_cmd : (writeCtrl v s).cmd = s.cmd := rfl
@[simp] theorem writeCtrl_status : (writeCtrl v s).status = s.status := rfl
@[simp] theorem writeCtrl_ie : (writeCtrl v s).ie = v.getLsbD 0 := rfl
@[simp] theorem writeCtrl_opaLo : (writeCtrl v s).opaLo = s.opaLo := rfl
@[simp] theorem writeCtrl_opaHi : (writeCtrl v s).opaHi = s.opaHi := rfl
@[simp] theorem writeCtrl_opb : (writeCtrl v s).opb = s.opb := rfl
@[simp] theorem writeCtrl_opc : (writeCtrl v s).opc = s.opc := rfl
@[simp] theorem writeCtrl_res : (writeCtrl v s).res = s.res := rfl
@[simp] theorem writeCtrl_kp : (writeCtrl v s).kp = s.kp := rfl
@[simp] theorem writeCtrl_work : (writeCtrl v s).work = s.work := rfl
@[simp] theorem writeCtrl_hRdata : (writeCtrl v s).hRdata = s.hRdata := rfl
@[simp] theorem writeCtrl_turns : (writeCtrl v s).turns = s.turns := rfl
@[simp] theorem writeCtrl_entropy : (writeCtrl v s).entropy = s.entropy := rfl
end

section
variable (s : State)
@[simp] theorem applyReset_cmd : (applyReset s).cmd = 0#32 := rfl
@[simp] theorem applyReset_status : (applyReset s).status = ⟨false, false, false, false, none⟩ := rfl
@[simp] theorem applyReset_ie : (applyReset s).ie = false := rfl
@[simp] theorem applyReset_opaLo : (applyReset s).opaLo = 0#32 := rfl
@[simp] theorem applyReset_opaHi : (applyReset s).opaHi = 0#32 := rfl
@[simp] theorem applyReset_opb : (applyReset s).opb = 0#32 := rfl
@[simp] theorem applyReset_opc : (applyReset s).opc = 0#32 := rfl
@[simp] theorem applyReset_res : (applyReset s).res = 0#32 := rfl
@[simp] theorem applyReset_kp : (applyReset s).kp = Keypair.zero := rfl
@[simp] theorem applyReset_work : (applyReset s).work = none := rfl
@[simp] theorem applyReset_hRdata : (applyReset s).hRdata = some 0#32 := rfl
@[simp] theorem applyReset_turns : (applyReset s).turns = s.turns := rfl
@[simp] theorem applyReset_entropy : (applyReset s).entropy = s.entropy := rfl
end

section
variable (pt : Point) (s : State)
@[simp] theorem handshake_cmd : (handshake pt s).cmd = s.cmd := rfl
@[simp] theorem handshake_status : (handshake pt s).status = s.status := rfl
@[simp] theorem handshake_ie : (handshake pt s).ie = s.ie := rfl
@[simp] theorem handshake_opaLo : (handshake pt s).opaLo = s.opaLo := rfl
@[simp] theorem handshake_opaHi : (handshake pt s).opaHi = s.opaHi := rfl
@[simp] theorem handshake_opb : (handshake pt s).opb = s.opb := rfl
@[simp] theorem handshake_opc : (handshake pt s).opc = s.opc := rfl
@[simp] theorem handshake_res : (handshake pt s).res = s.res := rfl
@[simp] theorem handshake_kp : (handshake pt s).kp = s.kp := rfl
@[simp] theorem handshake_work : (handshake pt s).work = some (drawOutcome pt s.entropy.now) := rfl
@[simp] theorem handshake_hRdata : (handshake pt s).hRdata = s.hRdata := rfl
@[simp] theorem handshake_turns : (handshake pt s).turns = s.turns := rfl
@[simp] theorem handshake_entropy : (handshake pt s).entropy = s.entropy.after := rfl
end

section
variable (s : State)
@[simp] theorem takeTurn_cmd : (takeTurn s).cmd = s.cmd := rfl
@[simp] theorem takeTurn_status : (takeTurn s).status = s.status := rfl
@[simp] theorem takeTurn_ie : (takeTurn s).ie = s.ie := rfl
@[simp] theorem takeTurn_opaLo : (takeTurn s).opaLo = s.opaLo := rfl
@[simp] theorem takeTurn_opaHi : (takeTurn s).opaHi = s.opaHi := rfl
@[simp] theorem takeTurn_opb : (takeTurn s).opb = s.opb := rfl
@[simp] theorem takeTurn_opc : (takeTurn s).opc = s.opc := rfl
@[simp] theorem takeTurn_res : (takeTurn s).res = s.res := rfl
@[simp] theorem takeTurn_kp : (takeTurn s).kp = s.kp := rfl
@[simp] theorem takeTurn_work : (takeTurn s).work = s.work := rfl
@[simp] theorem takeTurn_hRdata : (takeTurn s).hRdata = none := rfl
@[simp] theorem takeTurn_turns : (takeTurn s).turns = s.turns.after := rfl
@[simp] theorem takeTurn_entropy : (takeTurn s).entropy = s.entropy := rfl
end

section
variable (w : Word) (s : State)
@[simp] theorem loadCommand_cmd : (loadCommand w s).cmd = w := rfl
@[simp] theorem loadCommand_status : (loadCommand w s).status = { s.status with busy := true, done := false, err := none } := rfl
@[simp] theorem loadCommand_ie : (loadCommand w s).ie = s.ie := rfl
@[simp] theorem loadCommand_opaLo : (loadCommand w s).opaLo = s.opaLo := rfl
@[simp] theorem loadCommand_opaHi : (loadCommand w s).opaHi = s.opaHi := rfl
@[simp] theorem loadCommand_opb : (loadCommand w s).opb = s.opb := rfl
@[simp] theorem loadCommand_opc : (loadCommand w s).opc = s.opc := rfl
@[simp] theorem loadCommand_res : (loadCommand w s).res = s.res := rfl
@[simp] theorem loadCommand_kp : (loadCommand w s).kp = s.kp := rfl
@[simp] theorem loadCommand_work : (loadCommand w s).work = none := rfl
@[simp] theorem loadCommand_hRdata : (loadCommand w s).hRdata = s.hRdata := rfl
@[simp] theorem loadCommand_turns : (loadCommand w s).turns = s.turns.push .core := rfl
@[simp] theorem loadCommand_entropy : (loadCommand w s).entropy = s.entropy := rfl
end

end Sys2Proof.Machine
end

