-- ==== Sys2Proof/Laws/Ops.lean ====
section
/-! SUPPORT. What each shared operation, each command and the step can do, said once. -/
namespace Sys2Proof.Machine

/-- `R204` and `R205` written out: what `complete` leaves. -/
theorem complete_res_eq (v : Word) (s : State) : complete .res (.res v) s = okRes v s := by
  simp [complete, settle, okRes]

theorem complete_keypair_eq (d : Dest) (k : Keypair) (s : State) :
    complete d (.keypair k) s = okKeys k s := by
  simp [complete, settle, okKeys]

theorem raise_res_eq (e : ErrKind) (s : State) : complete .res (.raise e) s = errRes e s := by
  simp [complete, raiseError, zeroDest, settle, errRes, errStatus]

theorem raise_keypair_eq (e : ErrKind) (s : State) : complete .keypair (.raise e) s = errKeys e s := by
  simp [complete, raiseError, zeroDest, settle, errKeys, errStatus]

/-- A completion always ends the command: `BUSY` 0, `DONE` 1, the working state empty. -/
theorem complete_ends (d : Dest) (r : Result) (s : State) :
    (complete d r s).status.busy = false ∧ (complete d r s).status.done = true ∧
      (complete d r s).work = none := by
  cases r <;> simp [complete, raiseError]

/-- A completion touches no register but its destinations and `STATUS`, and no entropy. -/
theorem complete_keeps (d : Dest) (r : Result) (s : State) :
    (complete d r s).cmd = s.cmd ∧ (complete d r s).ie = s.ie ∧ (complete d r s).opaLo = s.opaLo ∧
      (complete d r s).opaHi = s.opaHi ∧ (complete d r s).opb = s.opb ∧ (complete d r s).opc = s.opc ∧
      (complete d r s).hRdata = s.hRdata ∧ (complete d r s).turns = s.turns ∧
      (complete d r s).entropy = s.entropy ∧ (complete d r s).status.ovr = s.status.ovr := by
  cases r <;> cases d <;> simp [complete, raiseError, zeroDest]

/-- What a command in flight can do in one step: a handshake or the completion. -/
theorem advance_cases (d : Dest) (start : Progress) (s : State) :
    (∃ pt, s.work.getD start = .draw pt ∧ advance d start s = handshake pt s) ∨
      ∃ r, s.work.getD start = .finished r ∧ advance d start s = complete d r s := by
  cases h : s.work.getD start <;> simp [advance, h]

/-- The commands that draw: those that `EntropyUnavailable` can end (60_exceptions.md R206). -/
abbrev draws (i : Instr) : Bool := mayRaise i .entropyUnavailable

/-- A drawing command steps by `advance` from its own first progress. -/
theorem exec_drawing (i : Instr) (s : State) (h : draws i = true) :
    exec i s = .next (advance (destOf i) (firstProgress i s) s) := by
  cases i <;> first | rfl | simp [draws, mayRaise] at h

/-- A command that does not draw completes in one step, whatever the working state. -/
theorem exec_nonDrawing (i : Instr) (s : State) (h : draws i = false) :
    ∃ r, firstProgress i s = .finished r ∧ exec i s = .next (complete .res r s) := by
  cases i <;> first | exact ⟨_, rfl, rfl⟩ | simp [draws, mayRaise] at h

/-- Where a drawing command stands. -/
theorem progress_drawing (i : Instr) (s : State) (h : draws i = true) :
    progress i s = s.work.getD (firstProgress i s) := by
  cases i <;> first | rfl | simp [draws, mayRaise] at h

/-- A command that draws nothing stands at its end, whatever the working state. -/
theorem progress_nonDrawing (i : Instr) (s : State) (h : draws i = false) :
    ∃ r, progress i s = .finished r := by
  cases i <;> first | exact ⟨_, rfl⟩ | simp [draws, mayRaise] at h

/-- Everything one step of a command can do, for all twelve. -/
theorem exec_cases (i : Instr) (s t : State) (h : exec i s = .next t) :
    (∃ pt, draws i = true ∧ s.work.getD (firstProgress i s) = .draw pt ∧ t = handshake pt s) ∨
    (∃ r, draws i = true ∧ s.work.getD (firstProgress i s) = .finished r ∧ t = complete (destOf i) r s) ∨
    (∃ r, draws i = false ∧ firstProgress i s = .finished r ∧ t = complete .res r s) := by
  cases hd : draws i with
  | true =>
    rw [exec_drawing i s hd] at h
    obtain ⟨pt, h1, h2⟩ | ⟨r, h1, h2⟩ := advance_cases (destOf i) (firstProgress i s) s
    · exact .inl ⟨pt, rfl, h1, by rw [← h2]; injection h with h; exact h.symm⟩
    · exact .inr (.inl ⟨r, rfl, h1, by rw [← h2]; injection h with h; exact h.symm⟩)
  | false =>
    obtain ⟨r, h1, h2⟩ := exec_nonDrawing i s hd
    rw [h2] at h
    exact .inr (.inr ⟨r, rfl, h1, by injection h with h; exact h.symm⟩)

/-- Every command has a next state from every state. -/
theorem exec_total (i : Instr) (s : State) : ∃ t, exec i s = .next t := by
  cases i <;> exact ⟨_, rfl⟩

/-- Everything one core step can do. -/
theorem coreStep_cases (s t : State) (h : coreStep s = .next t) :
    (s.status.busy = false ∧ t = s) ∨
    (∃ i, s.status.busy = true ∧ current s = .ok i ∧ exec i s = .next t) ∨
    (∃ e, s.status.busy = true ∧ current s = .error e ∧ t = raiseError .nothing .illegalCommand s) := by
  unfold coreStep at h
  cases hb : s.status.busy with
  | false => simp [hb] at h; exact .inl ⟨rfl, h.symm⟩
  | true =>
    simp only [hb, if_true] at h
    cases hc : current s with
    | ok i => rw [hc] at h; exact .inr (.inl ⟨i, rfl, rfl, h⟩)
    | error e => rw [hc] at h; injection h with h; exact .inr (.inr ⟨e, rfl, rfl, h.symm⟩)

/-- Everything one step of the machine can do. -/
theorem step_cases (s t : State) (h : step s = .next t) :
    (∃ x, nextTurn s = .reset x ∧ t = applyReset (takeTurn s)) ∨
    (∃ x, nextTurn s = .host x ∧ t = hostTurn x (takeTurn s)) ∨
    (nextTurn s = .core ∧ coreStep (takeTurn s) = .next t) := by
  unfold step at h
  split at h
  · injection h with h; exact .inl ⟨_, by assumption, h.symm⟩
  · injection h with h; exact .inr (.inl ⟨_, by assumption, h.symm⟩)
  · exact .inr (.inr ⟨by assumption, h⟩)

/-- One core step always has a next state. -/
theorem coreStep_total (s : State) : ∃ t, coreStep s = .next t := by
  unfold coreStep
  split
  · split
    · exact exec_total _ _
    · exact ⟨_, rfl⟩
  · exact ⟨_, rfl⟩

/-- The machine never stops. -/
theorem step_total (s : State) : ∃ t, step s = .next t := by
  unfold step
  split
  · exact ⟨_, rfl⟩
  · exact ⟨_, rfl⟩
  · exact coreStep_total _

/-- Everything a host write can do: start a command, acknowledge, set `IE`, store an operand, be dropped
with `OVR`, or nothing. -/
theorem hostWrite_cases (idx : RegIdx) (v : Word) (s : State) :
    (hostWrite idx v s = accept v s ∧ s.status.busy = false ∧ s.status.fatal = false ∧ idx = 0#4) ∨
    (hostWrite idx v s = dropWrite s ∧
      ((s.status.busy = true ∧ (idx = 0#4 ∨ idx = 3#4 ∨ idx = 4#4 ∨ idx = 5#4 ∨ idx = 6#4)) ∨
        (s.status.fatal = true ∧ idx = 0#4))) ∨
    (hostWrite idx v s = acknowledge v s ∧ idx = 1#4) ∨
    (hostWrite idx v s = writeCtrl v s ∧ idx = 2#4) ∨
    (s.status.busy = false ∧
      (hostWrite idx v s = { s with opaLo := v } ∨ hostWrite idx v s = { s with opaHi := v } ∨
        hostWrite idx v s = { s with opb := v } ∨ hostWrite idx v s = { s with opc := v })) ∨
    hostWrite idx v s = s := by
  obtain ⟨n, hn, rfl⟩ : ∃ n < 16, idx = BitVec.ofNat 4 n := ⟨idx.toNat, idx.isLt, by simp⟩
  cases hb : s.status.busy <;> cases hf : s.status.fatal <;>
    interval_cases n <;> simp [hostWrite, requestCommand, writeOperand, hb, hf]

end Sys2Proof.Machine
end

