-- ==== Sys2Proof/Laws/Draw.lean ====
section
/-! SUPPORT. What one `Draw()` handshake can do, said once, and the numbers the draws ask for. -/
namespace Sys2Proof.Machine

/-- The acceptance test of `uniform` in numbers (40_random.md R101). -/
theorem uniformAccepts_iff (max v : Word) :
    uniformAccepts max v = true ↔ v.toNat < 0xFFFFFFFF - 0xFFFFFFFF % max.toNat := by
  unfold uniformAccepts
  exact decide_eq_true_iff

/-- `limit` is the largest multiple of `max` up to `MAX_UINT` (R101). -/
theorem uniformLimit_eq (max : Word) : uniformLimit max = 0xFFFFFFFF / max.toNat * max.toNat := by
  have := Nat.div_add_mod 0xFFFFFFFF max.toNat
  rw [Nat.mul_comm] at this
  simp only [uniformLimit, Config.maxUint]
  omega

/-- An accepted word's value lies in `[0, max)` (R101). -/
theorem uniformValue_lt (max v : Word) (h : max ≠ 0#32) : (uniformValue max v).toNat < max.toNat := by
  unfold uniformValue
  rw [BitVec.toNat_umod]
  apply Nat.mod_lt
  rcases Nat.eq_zero_or_pos max.toNat with h0 | h0
  · exact absurd (by rw [← BitVec.toNat_inj]; simpa using h0) h
  · exact h0

/-- `ent_fail` has priority over `ent_valid` (20_memory.md R68). -/
theorem drawOutcome_fail (pt : Point) (pins : EntPins) (h : pins.fail = true) :
    drawOutcome pt pins = .finished (.raise .entropyUnavailable) := by
  simp [drawOutcome, h]

/-- With neither input the core waits (R68). -/
theorem drawOutcome_wait (pt : Point) (v : Word) : drawOutcome pt ⟨false, false, v⟩ = .draw pt := by
  simp [drawOutcome]

/-- A word that `uniform` takes moves the command on. -/
theorem drawOutcome_accept (pt : Point) (v : Word) (h : uniformAccepts pt.max v = true) :
    drawOutcome pt ⟨false, true, v⟩ = resume pt (uniformValue pt.max v) := by
  simp [drawOutcome, h]

/-- A word that `uniform` rejects is discarded; the command stays in the draw. -/
theorem drawOutcome_reject (pt : Point) (v : Word) (h : uniformAccepts pt.max v = false) :
    drawOutcome pt ⟨false, true, v⟩ = .draw pt := by
  simp [drawOutcome, h]

/-- Everything a handshake can make of a draw. -/
theorem drawOutcome_cases (pt : Point) (pins : EntPins) :
    (pins.fail = true ∧ drawOutcome pt pins = .finished (.raise .entropyUnavailable)) ∨
    (pins.fail = false ∧ pins.valid = true ∧ uniformAccepts pt.max pins.data = true ∧
      drawOutcome pt pins = resume pt (uniformValue pt.max pins.data)) ∨
    (pins.fail = false ∧ (pins.valid = false ∨ uniformAccepts pt.max pins.data = false) ∧
      drawOutcome pt pins = .draw pt) := by
  cases h1 : pins.fail <;> cases h2 : pins.valid <;> cases h3 : uniformAccepts pt.max pins.data <;>
    simp [drawOutcome, h1, h2, h3]

/-- A drawing command inside a draw does one handshake. -/
theorem exec_draw (i : Instr) (s : State) (pt : Point) (hd : draws i = true)
    (hp : s.work.getD (firstProgress i s) = .draw pt) : exec i s = .next (handshake pt s) := by
  rw [exec_drawing i s hd, advance, hp]

/-- A drawing command at its end completes. -/
theorem exec_finished (i : Instr) (s : State) (r : Result) (hd : draws i = true)
    (hp : s.work.getD (firstProgress i s) = .finished r) :
    exec i s = .next (complete (destOf i) r s) := by
  rw [exec_drawing i s hd, advance, hp]

/-- A completion does not read the working state or the entropy stream. -/
theorem complete_work (d : Dest) (r : Result) (s : State) (p : Option Progress) :
    complete d r { s with work := p } = complete d r s := by
  cases r <;> cases d <;> rfl

/-- Subtraction of words without a borrow. -/
theorem word_sub_toNat (a b : Word) (h : a.toNat ≤ b.toNat) : (b - a).toNat = b.toNat - a.toNat :=
  BitVec.toNat_sub_of_le (by simpa [BitVec.le_def] using h)

/-- `MAX_UINT`'s word is rejected for every `max` (R101). -/
theorem uniformAccepts_top (max : Word) : uniformAccepts max 0xFFFFFFFF#32 = false := by
  rw [← Bool.not_eq_true, uniformAccepts_iff]
  simp

/-- A candidate of `get_prime` lies in [128, 255] (41_primality.md R126). -/
theorem candidate_range (v : Word) :
    128 ≤ (candidate (uniformValue 128#32 v)).toNat ∧ (candidate (uniformValue 128#32 v)).toNat ≤ 255 := by
  have := uniformValue_lt 128#32 v (by simp)
  simp only [candidate, Config.primeLow, BitVec.toNat_add, BitVec.toNat_ofNat] at this ⊢
  omega

/-- The totient of two candidates is the product it names: no wrap (42_modarith.md R156). -/
theorem keyTotient_toNat (p q : Word) (hp1 : 1 ≤ p.toNat) (hp2 : p.toNat ≤ 255) (hq1 : 1 ≤ q.toNat)
    (hq2 : q.toNat ≤ 255) : (keyTotient p q).toNat = (p.toNat - 1) * (q.toNat - 1) := by
  unfold keyTotient
  rw [BitVec.toNat_mul, word_sub_toNat 1#32 p (by simpa using hp1), word_sub_toNat 1#32 q (by simpa using hq1)]
  have : (p.toNat - 1) * (q.toNat - 1) ≤ 254 * 254 := Nat.mul_le_mul (by omega) (by omega)
  exact Nat.mod_eq_of_lt (by show (p.toNat - 1) * (q.toNat - 1) < 2 ^ 32; omega)

/-- The modulus of two candidates does not wrap either (R156). -/
theorem keyModulus_toNat (p q : Word) (hp : p.toNat ≤ 255) (hq : q.toNat ≤ 255) :
    (keyModulus p q).toNat = p.toNat * q.toNat := by
  unfold keyModulus
  rw [BitVec.toNat_mul]
  have : p.toNat * q.toNat ≤ 255 * 255 := Nat.mul_le_mul hp hq
  exact Nat.mod_eq_of_lt (by omega)

end Sys2Proof.Machine
end

