-- ==== Sys2Proof/Laws/ModArith.lean ====
section
/-! SUPPORT. The loops of Modular Arithmetic and of `decompose`: each ends by its own test, never by its
bound (log 8), and what each keeps true. -/
namespace Sys2Proof.Machine

/-- A bound above `b` is enough for the Euclidean loop: any two give the same value. -/
theorem gcdLoop_bound (k k' a b : Nat) (h : b < k) (h' : b < k') : gcdLoop k a b = gcdLoop k' a b := by
  induction k generalizing k' a b with
  | zero => omega
  | succ k ih =>
    cases k' with
    | zero => omega
    | succ k' =>
      unfold gcdLoop
      split
      · rfl
      · next hb =>
        have := Nat.mod_lt a (Nat.pos_of_ne_zero hb)
        exact ih k' b (a % b) (by omega) (by omega)

/-- One turn of the Euclidean loop keeps the greatest common divisor. -/
theorem gcdLoop_step (k a b : Nat) (hb : b ≠ 0) : gcdLoop (k + 1) a b = gcdLoop k b (a % b) := by
  simp [gcdLoop, hb]

@[simp] theorem gcdLoop_zero (k a : Nat) : gcdLoop k a 0 = a := by
  cases k <;> simp [gcdLoop]

/-- A bound above `r` is enough for the extended Euclidean loop. -/
theorem inverseLoop_bound (k k' oldR r : Nat) (oldS s : Int) (h : r < k) (h' : r < k') :
    inverseLoop k oldR r oldS s = inverseLoop k' oldR r oldS s := by
  induction k generalizing k' oldR r oldS s with
  | zero => omega
  | succ k ih =>
    cases k' with
    | zero => omega
    | succ k' =>
      unfold inverseLoop
      split
      · rfl
      · next hr =>
        have h1 := Nat.mod_lt oldR (Nat.pos_of_ne_zero hr)
        have h2 : oldR - oldR / r * r = oldR % r := by
          have := Nat.div_add_mod oldR r
          rw [Nat.mul_comm] at this
          omega
        rw [h2]
        exact ih k' _ _ _ _ (by omega) (by omega)

/-- `2^k` above the exponent is enough for the loop of `mod_pow`: 32 turns for a u32 (R150). -/
theorem modPowLoop_bound (m k k' acc b e : Nat) (h : e < 2 ^ k) (h' : e < 2 ^ k') :
    modPowLoop m k acc b e = modPowLoop m k' acc b e := by
  induction k generalizing k' acc b e with
  | zero =>
    have : e = 0 := by simpa using h
    subst this
    cases k' <;> simp [modPowLoop]
  | succ k ih =>
    cases k' with
    | zero =>
      have : e = 0 := by simpa using h'
      simp [modPowLoop, this]
    | succ k' =>
      unfold modPowLoop
      split
      · rfl
      · exact ih k' _ _ _ (by omega) (by omega)

/-- A bound with `d < 2^k`, `d ≠ 0`, is enough for the loop of `decompose` (R123). -/
theorem decomposeLoop_bound (k k' s d : Nat) (hd : d ≠ 0) (h : d < 2 ^ k) (h' : d < 2 ^ k') :
    decomposeLoop k s d = decomposeLoop k' s d := by
  induction k generalizing k' s d with
  | zero => simp at h; omega
  | succ k ih =>
    cases k' with
    | zero => simp at h'; omega
    | succ k' =>
      unfold decomposeLoop
      split
      · exact ih k' _ _ (by omega) (by omega) (by omega)
      · rfl

/-- `decompose` keeps `2^s · d` (R123). -/
theorem decomposeLoop_product (k s d : Nat) :
    2 ^ (decomposeLoop k s d).1 * (decomposeLoop k s d).2 = 2 ^ s * d := by
  induction k generalizing s d with
  | zero => rfl
  | succ k ih =>
    unfold decomposeLoop
    split
    · next h =>
      rw [ih, pow_succ]
      obtain ⟨c, rfl⟩ := Nat.dvd_of_mod_eq_zero h
      rw [Nat.mul_div_cancel_left c (by decide)]
      ring
    · rfl

end Sys2Proof.Machine
end

