-- ==== Sys2Proof/Laws/PerInstr.lean ====
section
/-! SUPPORT. Statements made for every instruction, one lemma a constructor (LAWS.json). -/
namespace Sys2Proof.Laws.EncodesLegal

/-- The command word of every instruction passes both checks of a legal word (30_encoding.md R80, R84). -/
def Statement (i : Instr) : Prop := wordWf (encode i) = true

theorem keygen : Statement .keygen := rfl
theorem encrypt : Statement .encrypt := rfl
theorem decrypt : Statement .decrypt := rfl
theorem modpow : Statement .modpow := rfl
theorem gcd : Statement .gcd := rfl
theorem modinv : Statement .modinv := rfl
theorem isprime : Statement .isprime := rfl
theorem sieve : Statement .sieve := rfl
theorem mrtest : Statement .mrtest := rfl
theorem getprime : Statement .getprime := rfl
theorem uniform : Statement .uniform := rfl
theorem range : Statement .range := rfl

end Sys2Proof.Laws.EncodesLegal
end

