-- ==== Sys2Proof/Machine/Ports.lean ====
section
/-! DEFINITION. The host's side of the window: the names and places of the registers (10_state.md R21), the
host pins of one clock edge (R44, 70_reset_and_hazards.md R230), and the host script with its
pseudo-instructions (30_encoding.md R86, R87). The step does not call this file. -/
namespace Sys2Proof.Machine

/-- The thirteen registers of the window (R21). -/
inductive RegName where
  | cmd | status | ctrl | opaLo | opaHi | opb | opc | res | kpE | kpD | kpN | kpP | kpQ
  deriving DecidableEq, Repr

/-- The index of a register (R21). -/
def RegName.idx : RegName → RegIdx
  | .cmd => 0#4
  | .status => 1#4
  | .ctrl => 2#4
  | .opaLo => 3#4
  | .opaHi => 4#4
  | .opb => 5#4
  | .opc => 6#4
  | .res => 7#4
  | .kpE => 8#4
  | .kpD => 9#4
  | .kpN => 10#4
  | .kpP => 11#4
  | .kpQ => 12#4

/-- The byte offset of an index, for a byte-addressed bus (R21, 20_memory.md R63). -/
def byteOffset (idx : RegIdx) : Nat := 4 * idx.toNat

/-- The host transaction of an edge (R44): `h_sel`, `h_write`, `h_idx`, `h_wdata`. -/
def pinTxn (sel write : Bool) (idx : RegIdx) (wdata : Word) : Option HostTxn :=
  if sel then some (if write then .write idx wdata else .read idx) else none

/-- The turn an edge stands for (R44, R230): reset first, then the host's transaction, else a core step. A core
step that an RTL takes on the same edge as a host transaction is a turn before or after it (log 17). -/
def edgeTurn (rst sel write : Bool) (idx : RegIdx) (wdata : Word) : Turn :=
  if rst then .reset (pinTxn sel write idx wdata)
  else match pinTxn sel write idx wdata with
    | some t => .host t
    | none => .core

/-- A line of a host script (R86), and `wait` of R87: `rd STATUS` until `waitOver`. -/
inductive ScriptLine where
  | wr (r : RegName) (v : Word)
  | rd (r : RegName)
  | wait
  deriving DecidableEq, Repr

/-- The transaction of a line (R86); for `wait`, each one it repeats (R87). -/
def ScriptLine.txn : ScriptLine → HostTxn
  | .wr r v => .write r.idx v
  | .rd r => .read r.idx
  | .wait => .read 1#4

/-- `wait` ends on a value read from `STATUS` with `BUSY = 0` (R87). -/
def waitOver (status : Word) : Bool := !status.getLsbD 0

/-- After `wait` the result is valid when the value read has `DONE = 1` and `ERR = 0` (R87, R32). -/
def resultValid (status : Word) : Bool := status.getLsbD 1 && (status.extractLsb' 4 4 == 0#4)

/-- A command and the wait for it (R87). -/
def scriptIssue (i : Instr) : List ScriptLine := [.wr .cmd (encode i), .wait]

/-- `ack` and `ackovr` (R87). -/
def scriptAck : List ScriptLine := [.wr .status 0x2#32]
def scriptAckovr : List ScriptLine := [.wr .status 0x8#32]

/-- `keygen` and `getprime` (R87). -/
def scriptKeygen : List ScriptLine := scriptIssue .keygen
def scriptGetprime : List ScriptLine := scriptIssue .getprime

/-- `encrypt byte, key, modulus` and `decrypt cipher, key, modulus` (R87). -/
def scriptEncrypt (byte key modulus : Word) : List ScriptLine :=
  [.wr .opaLo byte, .wr .opb key, .wr .opc modulus] ++ scriptIssue .encrypt
def scriptDecrypt (cipher key modulus : Word) : List ScriptLine :=
  [.wr .opaLo cipher, .wr .opb key, .wr .opc modulus] ++ scriptIssue .decrypt

/-- `modpow base, exponent, modulus` (R87): the low half of the base first. -/
def scriptModpow (base : DWord) (exponent modulus : Word) : List ScriptLine :=
  [.wr .opaLo (base.extractLsb' 0 32), .wr .opaHi (base.extractLsb' 32 32), .wr .opb exponent,
   .wr .opc modulus] ++ scriptIssue .modpow

/-- `gcd a, b`, `modinv a, b` and `range a, b` (R87). -/
def scriptGcd (a b : Word) : List ScriptLine := [.wr .opaLo a, .wr .opb b] ++ scriptIssue .gcd
def scriptModinv (a b : Word) : List ScriptLine := [.wr .opaLo a, .wr .opb b] ++ scriptIssue .modinv
def scriptRange (a b : Word) : List ScriptLine := [.wr .opaLo a, .wr .opb b] ++ scriptIssue .range

/-- `isprime n`, `sieve n`, `mrtest n` and `uniform max` (R87). -/
def scriptIsprime (n : Word) : List ScriptLine := [.wr .opaLo n] ++ scriptIssue .isprime
def scriptSieve (n : Word) : List ScriptLine := [.wr .opaLo n] ++ scriptIssue .sieve
def scriptMrtest (n : Word) : List ScriptLine := [.wr .opaLo n] ++ scriptIssue .mrtest
def scriptUniform (max : Word) : List ScriptLine := [.wr .opaLo max] ++ scriptIssue .uniform

end Sys2Proof.Machine
end

