-- ==== Sys2Proof/Tests/Slice0.lean ====
section
/-! SUPPORT. Tests of single steps, with expected values from the spec's worked examples (the rule is named at
each), and for every statement with hypotheses a concrete state and operands that meet them. -/
namespace Sys2Proof.Machine.Tests
open Sys2Proof Sys2Proof.Machine

/-! ## Helpers -/

/-- A state with the command `i` just accepted on the operands given, the entropy source about to present
`ahead` and then nothing, and no turn scheduled but the core's. -/
def ready (i : Instr) (a hi b c : Word) (ahead : List EntPins) : State :=
  { State.reset with cmd := encode i, status := ⟨true, false, false, false, none⟩, opaLo := a, opaHi := hi, opb := b, opc := c, turns := .nothing, entropy := ⟨ahead, .again []⟩ }

/-- The same with the command further on. -/
def inside (i : Instr) (a b : Word) (p : Progress) (ahead : List EntPins) : State :=
  { ready i a 0#32 b 0#32 ahead with work := some p }

/-- An idle state in the fatal state, as `ENTROPY_UNAVAILABLE` leaves it. -/
def dead : State := { State.reset with status := ⟨false, true, true, false, some .entropyUnavailable⟩, turns := .nothing }

def resOf : Host.Outcome State Fault Refusal → Option Word
  | .next t => some t.res
  | _ => none

def statusOf : Host.Outcome State Fault Refusal → Option Word
  | .next t => some t.status.toWord
  | _ => none

def workOf : Host.Outcome State Fault Refusal → Option Progress
  | .next t => t.work
  | _ => none

def keysOf : Host.Outcome State Fault Refusal → Option Keypair
  | .next t => some t.kp
  | _ => none

/-- The entropy word `w` presented. -/
def wd (w : Word) : EntPins := ⟨false, true, w⟩

/-- The entropy source failing while it presents a word too. -/
def failing : EntPins := ⟨true, true, 9#32⟩

/-- The Keypair of the source's scenario (44_cipher.md R189). -/
def scenario : Keypair := ⟨7#32, 14263#32, 25283#32, 131#32, 193#32⟩

/-- A command just accepted meets the invariant. -/
theorem ready_inv (i : Instr) (a hi b c : Word) (ahead : List EntPins) :
    MachineInv (ready i a hi b c ahead) := by
  constructor <;> simp [ready, State.reset, WorkOk]

theorem decode_word_of (i : Instr) : decode (encode i) = .ok i := by cases i <;> decide

theorem ready_current (i : Instr) (a hi b c : Word) (ahead : List EntPins) :
    current (ready i a hi b c ahead) = .ok i := decode_word_of i

/-- With no turn scheduled, a busy core steps by its command. -/
theorem step_of (i : Instr) (s t : State) (h1 : nextTurn s = .core) (h2 : s.status.busy = true)
    (h3 : current s = .ok i) (h : exec i (takeTurn s) = .next t) : step s = .next t := by
  have h4 : current (takeTurn s) = .ok i := h3
  rw [← h]
  simp [step, coreStep, h1, h2, h4]

/-- A command further on meets the invariant when its working state fits. -/
theorem inside_inv (i : Instr) (a b : Word) (p : Progress) (ahead : List EntPins)
    (h : WorkOk i (inside i a b p ahead)) : MachineInv (inside i a b p ahead) := by
  have hc : current (inside i a b p ahead) = .ok i := decode_word_of i
  refine ⟨by simp [inside, ready], by simp [inside, ready], by simp [inside, ready], ?_, ?_, ?_⟩
  · intro j hj
    rw [hc] at hj
    cases hj
    exact h
  · intro e he
    rw [hc] at he
    cases he
  · exact .inl rfl

theorem genPrime_131 : GenPrime 131#32 := ⟨by norm_num, by decide, by decide⟩
theorem genPrime_193 : GenPrime 193#32 := ⟨by norm_num, by decide, by decide⟩

theorem scenario_ok : KeypairOk scenario := by
  refine ⟨genPrime_131, genPrime_193, by decide, ?_, ?_, ?_, ?_, ?_, ?_, ?_⟩ <;> decide

/-! ## Well-formedness: each check refuses an ill-formed word -/

theorem test_zero_field_refused : zeroFieldOk 0x00000105#32 = false := by decide
theorem test_zero_field_top_bit_refused : zeroFieldOk 0x80000001#32 = false := by decide
theorem test_opcode_zero_refused : opcodeOk 0x00000000#32 = false := by decide
theorem test_opcode_13_refused : opcodeOk 0x0000000D#32 = false := by decide
theorem test_opcode_255_refused : opcodeOk 0x000000FF#32 = false := by decide
theorem test_ill_formed_words : wordWf 0x0000000D#32 = false ∧ wordWf 0x00000101#32 = false := by decide

/-! ## Decoding: every word of 30_encoding.md R82, bit by bit -/

theorem test_decode_keygen : decode 0b00000000000000000000000000000001#32 = .ok .keygen := by decide
theorem test_decode_encrypt : decode 0b00000000000000000000000000000010#32 = .ok .encrypt := by decide
theorem test_decode_decrypt : decode 0b00000000000000000000000000000011#32 = .ok .decrypt := by decide
theorem test_decode_modpow : decode 0b00000000000000000000000000000100#32 = .ok .modpow := by decide
theorem test_decode_gcd : decode 0b00000000000000000000000000000101#32 = .ok .gcd := by decide
theorem test_decode_modinv : decode 0b00000000000000000000000000000110#32 = .ok .modinv := by decide
theorem test_decode_isprime : decode 0b00000000000000000000000000000111#32 = .ok .isprime := by decide
theorem test_decode_sieve : decode 0b00000000000000000000000000001000#32 = .ok .sieve := by decide
theorem test_decode_mrtest : decode 0b00000000000000000000000000001001#32 = .ok .mrtest := by decide
theorem test_decode_getprime : decode 0b00000000000000000000000000001010#32 = .ok .getprime := by decide
theorem test_decode_uniform : decode 0b00000000000000000000000000001011#32 = .ok .uniform := by decide
theorem test_decode_range : decode 0b00000000000000000000000000001100#32 = .ok .range := by decide
theorem test_decode_table_word : decodeTableWord 32 0x0C = some .range ∧ decodeTableWord 32 0x0D = none := by
  decide

/-! ## One step of each command -/

/-- R151, worked example and corner case. -/
theorem test_modpow_worked_example :
    resOf (exec .modpow (ready .modpow 65#32 0#32 7#32 25283#32 [])) = some 22969#32 := by decide
theorem test_modpow_64_bit_base :
    resOf (exec .modpow (ready .modpow 0xFFFFFFFF#32 0xFFFFFFFF#32 1#32 0xFFFFFFFF#32 [])) = some 0#32 := by
  decide

/-- R186: `R[OPA_LO] = 0x141` is read as byte 0x41; modulus 0 is `OPERAND_FAULT` (STATUS 0x32). -/
theorem test_encrypt_low_byte :
    resOf (exec .encrypt (ready .encrypt 0x141#32 0#32 7#32 25283#32 [])) = some 22969#32 := by decide
theorem test_encrypt_modulus_zero :
    statusOf (exec .encrypt (ready .encrypt 65#32 0#32 7#32 0#32 [])) = some 0x32#32 := by decide

/-- R188. -/
theorem test_decrypt_worked_example :
    resOf (exec .decrypt (ready .decrypt 22969#32 5#32 14263#32 25283#32 [])) = some 0x41#32 := by
  decide
theorem test_decrypt_truncates :
    resOf (exec .decrypt (ready .decrypt 22969#32 0#32 1#32 25283#32 [])) = some 0xB9#32 := by decide

/-- R153. -/
theorem test_gcd_worked_example :
    resOf (exec .gcd (ready .gcd 7#32 0#32 24960#32 0#32 [])) = some 1#32 := by decide
theorem test_gcd_zero_b :
    resOf (exec .gcd (ready .gcd 0#32 0#32 5#32 0#32 [])) = some 5#32 := by decide

/-- R155. -/
theorem test_modinv_worked_example :
    resOf (exec .modinv (ready .modinv 7#32 0#32 24960#32 0#32 [])) = some 14263#32 := by decide
theorem test_modinv_not_coprime :
    statusOf (exec .modinv (ready .modinv 6#32 0#32 9#32 0#32 [])) = some 0x22#32 := by decide

/-- R127. -/
theorem test_sieve_two : resOf (exec .sieve (ready .sieve 2#32 0#32 0#32 0#32 [])) = some 0#32 := by
  decide
theorem test_sieve_square_of_1009 :
    resOf (exec .sieve (ready .sieve 1018081#32 0#32 0#32 0#32 [])) = some 2#32 := by decide +kernel

/-- R129: 221 = 13 · 17 without entropy; 1009 goes to Miller–Rabin. -/
theorem test_isprime_221 : resOf (exec .isprime (ready .isprime 221#32 0#32 0#32 0#32 [])) = some 0#32 := by
  decide
theorem test_isprime_1009_draws :
    workOf (exec .isprime (ready .isprime 1009#32 0#32 0#32 0#32 [])) =
      some (.draw (.millerRabin 1009#32 4 63#32 1)) := by decide +kernel

/-- R128: the worked example, word 9 at `n = 1009`; and `n = 3` faults. -/
theorem test_mrtest_worked_example :
    workOf (exec .mrtest (ready .mrtest 1009#32 0#32 0#32 0#32 [wd 9#32])) =
      some (.finished (.res 0#32)) := by decide
theorem test_mrtest_three_faults :
    statusOf (exec .mrtest (ready .mrtest 3#32 0#32 0#32 0#32 [wd 9#32])) = some 0x32#32 := by decide

/-- R130: 129 = 3 · 43 is rejected, 131 is the prime. -/
theorem test_getprime_rejects_129 :
    workOf (exec .getprime (ready .getprime 0#32 0#32 0#32 0#32 [wd 0x81#32])) =
      some (.draw (.getPrime 2)) := by decide
theorem test_getprime_finds_131 :
    workOf (exec .getprime (inside .getprime 0#32 0#32 (.draw (.getPrime 3)) [wd 3#32])) =
      some (.finished (.res 131#32)) := by decide

/-- R103: `max = 10`, 0xFFFFFFFB is discarded, 57 gives 7. -/
theorem test_uniform_discards :
    workOf (exec .uniform (ready .uniform 10#32 0#32 0#32 0#32 [wd 0xFFFFFFFB#32])) =
      some (.draw (.uniform 10#32)) := by decide
theorem test_uniform_accepts :
    workOf (exec .uniform (inside .uniform 10#32 0#32 (.draw (.uniform 10#32)) [wd 57#32])) =
      some (.finished (.res 7#32)) := by decide

/-- R104. -/
theorem test_range_worked_example :
    workOf (exec .range (ready .range 128#32 0#32 256#32 0#32 [wd 3#32])) =
      some (.finished (.res 131#32)) := by decide
theorem test_range_empty_interval :
    statusOf (exec .range (ready .range 5#32 0#32 5#32 0#32 [wd 3#32])) = some 0x32#32 := by decide

/-- R172, worked example: `q = p` repeats step 2; word 6 gives `e = 7`. -/
theorem test_keygen_repeats_equal_primes :
    workOf (exec .keygen (inside .keygen 0#32 0#32 (.draw (.keygenQ 131#32 1)) [wd 3#32])) =
      some (.draw (.keygenQ 131#32 1)) := by decide
theorem test_keygen_exponent :
    workOf (exec .keygen (inside .keygen 0#32 0#32 (.draw (.keygenE 131#32 193#32)) [wd 6#32])) =
      some (.finished (.keypair scenario)) := by decide

/-! ## The register window and the life of a command -/

/-- R200, R202: the all-zero word is accepted and completes with `ILLEGAL_COMMAND` (STATUS 0x42). -/
theorem test_illegal_word :
    statusOf (coreStep (hostWrite 0#4 0#32 State.reset)) = some 0x42#32 := by decide
/-- R201: an operand write while BUSY is dropped and sets `OVR`. -/
theorem test_busy_write_dropped :
    (hostWrite 5#4 7#32 (ready .getprime 0#32 0#32 1#32 0#32 [])).opb = 1#32 ∧
      (hostWrite 5#4 7#32 (ready .getprime 0#32 0#32 1#32 0#32 [])).status.toWord = 0x09#32 := by decide
/-- R68: `ent_fail` wins over `ent_valid`; R205: STATUS 0x56 and a zeroed destination. -/
theorem test_entropy_failure :
    statusOf (exec .uniform (inside .uniform 10#32 0#32 (.finished (.raise .entropyUnavailable)) [])) =
      some 0x56#32 ∧
    workOf (exec .uniform (ready .uniform 10#32 0#32 0#32 0#32 [failing])) =
      some (.finished (.raise .entropyUnavailable)) := by decide
/-- A KEYGEN at its end writes the five registers. -/
theorem test_keygen_completes :
    keysOf (exec .keygen (inside .keygen 0#32 0#32 (.finished (.keypair scenario)) [])) = some scenario := by
  decide

/-- R87: `modpow` writes the halves of the base to `OPA_LO` and `OPA_HI`. -/
theorem test_script_modpow :
    (scriptModpow 0x0000000100000002#64 3#32 4#32).map ScriptLine.txn =
      [.write 3#4 2#32, .write 4#4 1#32, .write 5#4 3#32, .write 6#4 4#32, .write 0#4 4#32, .read 1#4] := by
  decide
/-- R44, R230: reset comes before the transaction on its edge. -/
theorem test_edge_turns :
    edgeTurn true true false 7#4 0#32 = .reset (some (.read 7#4)) ∧
      edgeTurn false true true 0#4 5#32 = .host (.write 0#4 5#32) ∧
      edgeTurn false false true 0#4 5#32 = .core := by decide

/-! ## Witnesses: what the hypotheses of each statement are met by -/

theorem test_witness_StepRunsCurrentCommand :
    (∃ (s : State) (i : Instr), s.status.busy = true ∧ decode s.cmd = .ok i ∧ nextTurn s = .core ∧
      s.turns = ⟨[], .again []⟩) ∧
    (∃ (s : State) (i : Instr), s.status.busy = true ∧ decode s.cmd = .ok i ∧ nextTurn s = .core ∧
      s.turns = ⟨[.core], .free 0⟩) :=
  ⟨⟨ready .gcd 7#32 0#32 5#32 0#32 [], .gcd, rfl, decode_word_of _, rfl, rfl⟩,
    ⟨State.reset.withFetchWord 32 5, .gcd, rfl, by decide, rfl, rfl⟩⟩

theorem test_witness_TurnsOfTheOtherAgents :
    (∃ (s : State) (idx : RegIdx) (v : Word), nextTurn s = .host (.write idx v)) ∧
    (∃ (s : State) (idx : RegIdx), nextTurn s = .host (.read idx)) ∧
    (∃ (s : State) (x : Option HostTxn), nextTurn s = .reset x) ∧
    (∃ s : State, nextTurn s = .core ∧ s.status.busy = false) ∧
    (∃ (s : State) (x : Turn) (ts : List Turn), s.turns.ahead = x :: ts) ∧
    (∃ (s : State) (x : Turn) (ts : List Turn), s.turns = ⟨[], .again (x :: ts)⟩) ∧
    (∃ s : State, s.turns = ⟨[], .again []⟩ ∧ s.status.busy = false) :=
  ⟨⟨{ State.reset with turns := ⟨[.host (.write 0#4 5#32)], .free 0⟩ }, 0#4, 5#32, rfl⟩,
    ⟨{ State.reset with turns := ⟨[.host (.read 15#4)], .free 0⟩ }, 15#4, rfl⟩,
    ⟨{ State.reset with turns := ⟨[.reset (some (.read 1#4))], .free 0⟩ }, some (.read 1#4), rfl⟩,
    ⟨{ State.reset with turns := ⟨[.core], .free 0⟩ }, rfl, rfl⟩,
    ⟨{ State.reset with turns := ⟨[.core], .free 0⟩ }, .core, [], rfl⟩,
    ⟨{ State.reset with turns := ⟨[], .again [.host (.read 1#4), .core]⟩ }, .host (.read 1#4), [.core], rfl⟩,
    ⟨{ State.reset with turns := .nothing }, rfl, rfl⟩⟩

/-- A host that polls `STATUS` for ever, with a core step after each poll, is one schedule (R10). -/
theorem test_polling_for_ever :
    (Feed.afterMany 6 (⟨[], .again [.host (.read 1#4), .core]⟩ : Schedule)).head .core Config.freeTurn =
      .host (.read 1#4) ∧
    (Feed.afterMany 7 (⟨[], .again [.host (.read 1#4), .core]⟩ : Schedule)).head .core Config.freeTurn = .core :=
  ⟨rfl, rfl⟩

/-- From reset the entropy source is the free stream of R69, entry by entry. -/
theorem test_reset_stream_is_free (k : Nat) : State.reset.entropy.pinsAt k = Config.freePins k := by
  have h := EntropyPort.pinsAt_free k 0
  rwa [Nat.zero_add] at h

theorem test_witness_IllegalCommandCompletes :
    ∃ s : State, s.status.busy = false ∧ s.status.fatal = false ∧ 256 ≤ (0x100#32 : Word).toNat ∧
      (0x100#32 : Word).toNat % 256 = 0 ∧ 0x0D ≤ (0x0D#32 : Word).toNat % 256 :=
  ⟨State.reset, by decide⟩

theorem test_witness_WritesWhileBusyOrFatal :
    (∃ s : State, s.status.busy = true) ∧ (∃ s : State, s.status.busy = false ∧ s.status.fatal = true) :=
  ⟨⟨ready .gcd 7#32 0#32 5#32 0#32 [], rfl⟩, ⟨dead, rfl, rfl⟩⟩

theorem test_witness_OperandWriteStores : ∃ s : State, s.status.busy = false := ⟨State.reset, rfl⟩

theorem test_witness_ReservedAndReadOnlyIndices :
    7 ≤ (7#4 : RegIdx).toNat ∧ 13 ≤ (13#4 : RegIdx).toNat ∧ 13 ≤ (15#4 : RegIdx).toNat := by decide

theorem test_witness_ResetAbandonsCommand :
    ∃ (s : State) (x : Option HostTxn), s.status.busy = true ∧ nextTurn s = .reset x :=
  ⟨{ ready .getprime 0#32 0#32 0#32 0#32 [wd 3#32] with turns := ⟨[.reset none], .free 0⟩ }, none, rfl, rfl⟩

theorem test_witness_InterruptRaisedAndCleared :
    (0x2#32 : Word).getLsbD 1 = true ∧ State.reset.status.busy = false ∧ State.reset.status.fatal = false := by
  decide

theorem test_witness_FinishedCommandCompletes :
    (∃ s : State, s.work = some (.finished (.res 7#32))) ∧
    (∃ s : State, s.work = none ∧ firstProgress .isprime s = .finished (.res 1#32)) ∧
    (∃ s : State, firstProgress .gcd s = .finished (.res 1#32)) ∧
    (∃ s : State, s.work = some (.finished (.keypair scenario))) :=
  ⟨⟨inside .uniform 10#32 0#32 (.finished (.res 7#32)) [], rfl⟩,
    ⟨ready .isprime 997#32 0#32 0#32 0#32 [], rfl, by decide +kernel⟩,
    ⟨ready .gcd 7#32 0#32 24960#32 0#32 [], by decide⟩,
    ⟨inside .keygen 0#32 0#32 (.finished (.keypair scenario)) [], rfl⟩⟩

/-- For ModpowComputesPower, EncryptComputesPower and DecryptComputesLowByte. -/
theorem test_witness_modulus_zero_and_not :
    (∃ s : State, s.opc = 0#32) ∧ (∃ s : State, s.opc ≠ 0#32 ∧ s.opc = 1#32) :=
  ⟨⟨State.reset, rfl⟩, ⟨ready .modpow 65#32 0#32 7#32 1#32 [], by decide, rfl⟩⟩

theorem test_witness_ModinvComputesInverse :
    (∃ s : State, s.opb = 0#32) ∧
    (∃ s : State, s.opb ≠ 0#32 ∧ Nat.gcd s.opaLo.toNat s.opb.toNat ≠ 1) ∧
    (∃ s : State, s.opb = 1#32 ∧ s.opb ≠ 0#32 ∧ Nat.gcd s.opaLo.toNat s.opb.toNat = 1) ∧
    (∃ s : State, s.opb = 24960#32 ∧ s.opb ≠ 0#32 ∧ Nat.gcd s.opaLo.toNat s.opb.toNat = 1) :=
  ⟨⟨State.reset, rfl⟩, ⟨ready .modinv 6#32 0#32 9#32 0#32 [], by decide, by decide⟩,
    ⟨ready .modinv 7#32 0#32 1#32 0#32 [], rfl, by decide, by decide⟩,
    ⟨ready .modinv 7#32 0#32 24960#32 0#32 [], rfl, by decide, by decide⟩⟩

/-- Every clause, at the boundary: `limit` for `max = 10` is 0xFFFFFFFA. -/
theorem test_witness_UniformDrawsValue :
    (∃ s : State, s.work = none ∧ s.opaLo = 0#32) ∧
    (∃ s : State, s.work = none ∧ s.opaLo ≠ 0#32 ∧ s.entropy.now = ⟨false, true, 0xFFFFFFF9#32⟩ ∧
      (0xFFFFFFF9#32 : Word).toNat < 0xFFFFFFFF - 0xFFFFFFFF % s.opaLo.toNat) ∧
    (∃ s : State, s.work = some (.draw (.uniform s.opaLo)) ∧ s.opaLo ≠ 0#32 ∧
      s.entropy.now = ⟨false, true, 0xFFFFFFFA#32⟩ ∧
      0xFFFFFFFF - 0xFFFFFFFF % s.opaLo.toNat ≤ (0xFFFFFFFA#32 : Word).toNat) ∧
    (∃ s : State, s.work = none ∧ s.opaLo ≠ 0#32 ∧ s.entropy.now = ⟨false, false, 0#32⟩) ∧
    (∃ s : State, s.work = none ∧ s.opaLo ≠ 0#32 ∧ s.entropy.now.fail = true) :=
  ⟨⟨ready .uniform 0#32 0#32 0#32 0#32 [], rfl, rfl⟩,
    ⟨ready .uniform 10#32 0#32 0#32 0#32 [wd 0xFFFFFFF9#32], rfl, by decide, rfl, by decide⟩,
    ⟨inside .uniform 10#32 0#32 (.draw (.uniform 10#32)) [wd 0xFFFFFFFA#32], rfl, by decide, rfl, by decide⟩,
    ⟨ready .uniform 10#32 0#32 0#32 0#32 [], rfl, by decide, rfl⟩,
    ⟨ready .uniform 10#32 0#32 0#32 0#32 [failing], rfl, by decide, rfl⟩⟩

/-- Every clause, at the boundary: `limit` for `b − a = 128` is 0xFFFFFF80. -/
theorem test_witness_RangeDrawsValue :
    (∃ s : State, s.work = none ∧ s.opb.toNat ≤ s.opaLo.toNat) ∧
    (∃ s : State, s.work = none ∧ s.opaLo.toNat < s.opb.toNat ∧
      s.entropy.now = ⟨false, true, 0xFFFFFF7F#32⟩ ∧
      (0xFFFFFF7F#32 : Word).toNat < 0xFFFFFFFF - 0xFFFFFFFF % (s.opb.toNat - s.opaLo.toNat)) ∧
    (∃ s : State, s.work = some (.draw (.range s.opaLo s.opb)) ∧ s.opaLo.toNat < s.opb.toNat ∧
      s.entropy.now = ⟨false, true, 0xFFFFFF80#32⟩ ∧
      0xFFFFFFFF - 0xFFFFFFFF % (s.opb.toNat - s.opaLo.toNat) ≤ (0xFFFFFF80#32 : Word).toNat) ∧
    (∃ s : State, s.work = none ∧ s.opaLo.toNat < s.opb.toNat ∧ s.entropy.now = ⟨false, false, 0#32⟩) ∧
    (∃ s : State, s.work = none ∧ s.opaLo.toNat < s.opb.toNat ∧ s.entropy.now.fail = true) :=
  ⟨⟨ready .range 5#32 0#32 5#32 0#32 [], rfl, by decide⟩,
    ⟨ready .range 128#32 0#32 256#32 0#32 [wd 0xFFFFFF7F#32], rfl, by decide, rfl, by decide⟩,
    ⟨inside .range 128#32 256#32 (.draw (.range 128#32 256#32)) [wd 0xFFFFFF80#32], rfl, by decide, rfl,
      by decide⟩,
    ⟨ready .range 128#32 0#32 256#32 0#32 [], rfl, by decide, rfl⟩,
    ⟨ready .range 128#32 0#32 256#32 0#32 [failing], rfl, by decide, rfl⟩⟩

theorem test_witness_UniformIsUnbiased :
    (10#32 : Word) ≠ 0#32 ∧ 0 < (10#32 : Word).toNat ∧ 9 < (10#32 : Word).toNat := by decide

/-- A command of each kind inside a draw, meeting the invariant. -/
theorem test_witness_InternalDrawsMeetPrecondition :
    (∃ s : State, MachineInv s ∧ current s = .ok .isprime ∧
      s.work.getD (firstProgress .isprime s) = .draw (.millerRabin 1009#32 4 63#32 1)) ∧
    (∃ s : State, MachineInv s ∧ current s = .ok .mrtest ∧
      s.work.getD (firstProgress .mrtest s) = .draw (.millerRabin 5#32 2 1#32 1)) ∧
    (∃ s : State, MachineInv s ∧ current s = .ok .getprime ∧
      s.work.getD (firstProgress .getprime s) = .draw (.getPrime 1)) ∧
    (∃ s : State, MachineInv s ∧ current s = .ok .keygen ∧
      s.work.getD (firstProgress .keygen s) = .draw (.keygenE 131#32 193#32)) :=
  ⟨⟨ready .isprime 1009#32 0#32 0#32 0#32 [], ready_inv _ _ _ _ _ _, ready_current _ _ _ _ _ _,
      by decide +kernel⟩,
    ⟨ready .mrtest 5#32 0#32 0#32 0#32 [], ready_inv _ _ _ _ _ _, ready_current _ _ _ _ _ _,
      by decide⟩,
    ⟨ready .getprime 0#32 0#32 0#32 0#32 [], ready_inv _ _ _ _ _ _, ready_current _ _ _ _ _ _, rfl⟩,
    ⟨inside .keygen 0#32 0#32 (.draw (.keygenE 131#32 193#32)) [],
      inside_inv _ _ _ _ _ ⟨genPrime_131, genPrime_193, by decide⟩, decode_word_of _, rfl⟩⟩

theorem no_small_prime_divides_1009 (t : Nat) (ht : Nat.Prime t) (h : t ≤ 997) : ¬ t ∣ 1009 := by
  intro hd
  have h1 : Nat.Prime 1009 := by norm_num
  rcases (Nat.dvd_prime h1).1 hd with h2 | h2
  · exact ht.ne_one h2
  · omega

/-- For SieveClassifies and IsprimeDecidedBySieve: each clause at its boundary (3, 997; 2, 9, 999; 1009). -/
theorem test_witness_sieve_classes :
    (Nat.Prime (3#32 : Word).toNat ∧ Nat.Prime (997#32 : Word).toNat) ∧
    ((2#32 : Word).toNat < 3 ∧ ∃ t, Nat.Prime t ∧ t ≤ 997 ∧ t ∣ (999#32 : Word).toNat ∧ t ≠ (999#32 : Word).toNat) ∧
    (3 ≤ (1009#32 : Word).toNat ∧ ∀ t, Nat.Prime t → t ≤ 997 → ¬ t ∣ (1009#32 : Word).toNat) ∧
    (∃ s : State, s.work = none ∧ s.opaLo = 997#32) := by
  refine ⟨⟨by norm_num, by norm_num⟩, ⟨by decide, 3, by norm_num, by decide, by decide, by decide⟩,
    ⟨by decide, no_small_prime_divides_1009⟩, ⟨ready .isprime 997#32 0#32 0#32 0#32 [], rfl, rfl⟩⟩

theorem test_witness_DecomposeIsRight :
    (3 ≤ (3#32 : Word).toNat ∧ (3#32 : Word).toNat % 2 = 1) ∧
    (3 ≤ (0x80000001#32 : Word).toNat ∧ (0x80000001#32 : Word).toNat % 2 = 1 ∧
      (decompose 0x80000001#32).1 = 31) := by decide

theorem test_witness_RoundPassesClosedForm :
    5 ≤ (5#32 : Word).toNat ∧ 5 ≤ (1009#32 : Word).toNat ∧ mrRoundPasses mrREnd 1009#32 4 63#32 11#32 = false ∧
      mrRoundPasses mrREndAlt 1009#32 4 63#32 11#32 = true := by decide

/-- `n = 1009` with word 9 fails round 1; `n = 7` with word 0 (base 2) passes rounds 1, 9 and 10. -/
theorem test_witness_MrtestRounds :
    (∃ s : State, s.work = none ∧ (s.opaLo.toNat < 5 ∨ s.opaLo.toNat % 2 = 0)) ∧
    (∃ s : State, s.work = none ∧ s.opaLo = 1009#32 ∧ (1009#32 : Word).toNat % 2 = 1 ∧
      decompose 1009#32 = (4, 63#32) ∧ s.entropy.now = ⟨false, true, 9#32⟩ ∧
      9 < 0xFFFFFFFF - 0xFFFFFFFF % ((1009#32 : Word).toNat - 3) ∧
      mrRoundPasses mrREnd 1009#32 4 63#32 (word (9 % ((1009#32 : Word).toNat - 3) + 2)) = false) ∧
    (∃ s : State, s.work = some (.draw (.millerRabin 7#32 1 3#32 9)) ∧ s.entropy.now = ⟨false, true, 0#32⟩) ∧
    (∃ s : State, s.work = some (.draw (.millerRabin 7#32 1 3#32 10)) ∧ s.entropy.now = ⟨false, true, 0#32⟩) ∧
    5 ≤ (7#32 : Word).toNat ∧ 0 < 0xFFFFFFFF - 0xFFFFFFFF % ((7#32 : Word).toNat - 3) ∧
    mrRoundPasses mrREnd 7#32 1 3#32 (word (0 % ((7#32 : Word).toNat - 3) + 2)) = true :=
  ⟨⟨ready .mrtest 4#32 0#32 0#32 0#32 [], rfl, by decide⟩,
    ⟨ready .mrtest 1009#32 0#32 0#32 0#32 [wd 9#32], rfl, rfl, by decide, by decide, rfl, by decide, by decide⟩,
    ⟨inside .mrtest 7#32 0#32 (.draw (.millerRabin 7#32 1 3#32 9)) [wd 0#32], rfl, rfl⟩,
    ⟨inside .mrtest 7#32 0#32 (.draw (.millerRabin 7#32 1 3#32 10)) [wd 0#32], rfl, rfl⟩,
    by decide, by decide, by decide⟩

theorem test_witness_IsprimeRunsMillerRabin :
    (∃ s : State, s.work = none ∧ sieve s.opaLo = .undecided) ∧
    (∃ s : State, s.work = some (.draw (.millerRabin 1009#32 4 63#32 10))) ∧
    (∃ s : State, s.work = some (.finished (.res 1#32))) :=
  ⟨⟨ready .isprime 1009#32 0#32 0#32 0#32 [], rfl, by decide +kernel⟩,
    ⟨inside .isprime 1009#32 0#32 (.draw (.millerRabin 1009#32 4 63#32 10)) [], rfl⟩,
    ⟨inside .isprime 1009#32 0#32 (.finished (.res 1#32)) [], rfl⟩⟩

/-- Words 3 (131, prime) and 0 (128, composite); attempts 1 and 400. -/
theorem test_witness_GetprimeTriesCandidates :
    (∃ s : State, s.work = none ∧ s.entropy.now = ⟨false, true, 3#32⟩ ∧ Nat.Prime (128 + 3 % 128)) ∧
    (∃ s : State, s.work = none ∧ s.entropy.now = ⟨false, true, 0#32⟩ ∧ ¬ Nat.Prime (128 + 0 % 128)) ∧
    (∃ s : State, s.work = some (.draw (.getPrime 400)) ∧ s.entropy.now = ⟨false, true, 0xFFFFFF7F#32⟩ ∧
      (0xFFFFFF7F#32 : Word).toNat < 0xFFFFFF80 ∧ ¬ Nat.Prime (128 + (0xFFFFFF7F#32 : Word).toNat % 128)) :=
  ⟨⟨ready .getprime 0#32 0#32 0#32 0#32 [wd 3#32], rfl, rfl, by norm_num⟩,
    ⟨ready .getprime 0#32 0#32 0#32 0#32 [wd 0#32], rfl, rfl, by norm_num⟩,
    ⟨inside .getprime 0#32 0#32 (.draw (.getPrime 400)) [wd 0xFFFFFF7F#32], rfl, rfl, by decide, by norm_num⟩⟩

theorem test_witness_CandidatesDecidedBySieve :
    (128 ≤ (128#32 : Word).toNat ∧ ¬ Nat.Prime (128#32 : Word).toNat) ∧
    ((251#32 : Word).toNat ≤ 255 ∧ Nat.Prime (251#32 : Word).toNat) := by
  refine ⟨⟨by decide, by norm_num⟩, ⟨by decide, by norm_num⟩⟩

/-- The words of the source's scenario: 3 gives `p = 131`, 0x41 gives `q = 193`, 6 gives `e = 7`. -/
theorem test_witness_KeygenBuildsKeypair :
    ∃ s : State, s.work = none ∧
      s.entropy.presents [⟨false, true, 3#32⟩, ⟨false, true, 0x41#32⟩, ⟨false, true, 6#32⟩] ∧
      (3#32 : Word).toNat < 0xFFFFFF80 ∧ (0x41#32 : Word).toNat < 0xFFFFFF80 ∧
      Nat.Prime (128 + (3#32 : Word).toNat % 128) ∧ Nat.Prime (128 + (0x41#32 : Word).toNat % 128) ∧
      (3#32 : Word).toNat % 128 ≠ (0x41#32 : Word).toNat % 128 ∧
      (6#32 : Word).toNat < 0xFFFFFFFF - 0xFFFFFFFF %
        ((127 + (3#32 : Word).toNat % 128) * (127 + (0x41#32 : Word).toNat % 128) - 1) ∧
      Nat.gcd ((6#32 : Word).toNat % ((127 + (3#32 : Word).toNat % 128) * (127 + (0x41#32 : Word).toNat % 128) - 1) + 1)
        ((127 + (3#32 : Word).toNat % 128) * (127 + (0x41#32 : Word).toNat % 128)) = 1 :=
  ⟨ready .keygen 0#32 0#32 0#32 0#32 [wd 3#32, wd 0x41#32, wd 6#32], rfl, ⟨rfl, rfl, rfl, trivial⟩, by decide, by decide,
    by norm_num, by norm_num, by decide, by decide, by decide⟩

/-- Each loop: a rejected candidate at attempts 1 and 400, `q = p`, and exponent 2. -/
theorem test_witness_KeygenRetries :
    (∃ s : State, s.entropy.now = ⟨false, true, 0#32⟩ ∧ s.work = some (.draw (.keygenP 1)) ∧
      ¬ Nat.Prime (128 + (0#32 : Word).toNat % 128)) ∧
    (∃ s : State, s.entropy.now = ⟨false, true, 0#32⟩ ∧ s.work = some (.draw (.keygenP 400))) ∧
    (∃ s : State, s.entropy.now = ⟨false, true, 0#32⟩ ∧ s.work = some (.draw (.keygenQ 131#32 400))) ∧
    (∃ s : State, s.entropy.now = ⟨false, true, 3#32⟩ ∧ s.work = some (.draw (.keygenQ 131#32 5)) ∧
      Nat.Prime (128 + (3#32 : Word).toNat % 128) ∧ (131#32 : Word).toNat = 128 + (3#32 : Word).toNat % 128) ∧
    (∃ s : State, s.entropy.now = ⟨false, true, 1#32⟩ ∧ s.work = some (.draw (.keygenE 131#32 193#32)) ∧
      GenPrime 131#32 ∧ GenPrime 193#32 ∧ (1#32 : Word).toNat < 0xFFFFFFFF - 0xFFFFFFFF % (130 * 192 - 1) ∧
      Nat.gcd ((1#32 : Word).toNat % (130 * 192 - 1) + 1) (130 * 192) ≠ 1) :=
  ⟨⟨inside .keygen 0#32 0#32 (.draw (.keygenP 1)) [wd 0#32], rfl, rfl, by norm_num⟩,
    ⟨inside .keygen 0#32 0#32 (.draw (.keygenP 400)) [wd 0#32], rfl, rfl⟩,
    ⟨inside .keygen 0#32 0#32 (.draw (.keygenQ 131#32 400)) [wd 0#32], rfl, rfl⟩,
    ⟨inside .keygen 0#32 0#32 (.draw (.keygenQ 131#32 5)) [wd 3#32], rfl, rfl, by norm_num, by decide⟩,
    ⟨inside .keygen 0#32 0#32 (.draw (.keygenE 131#32 193#32)) [wd 1#32], rfl, rfl, genPrime_131, genPrime_193,
      by decide, by decide⟩⟩

/-- The worked example of R172, all seven words on the entropy port; and UNIFORM's of R103, two words. -/
theorem test_witness_CommandFollowsPseudocode :
    (∃ s : State, s.work = none ∧
      s.entropy.presents
        (([0#32, 3#32, 3#32, 0xFFFFFFFF#32, 0x41#32, 1#32, 6#32] : List Word).map presentWord) ∧
      commandOn .keygen s [0#32, 3#32, 3#32, 0xFFFFFFFF#32, 0x41#32, 1#32, 6#32] =
        some (.keypair scenario, [])) ∧
    (∃ s : State, s.work = none ∧ s.entropy.presents (([0xFFFFFFFB#32, 57#32] : List Word).map presentWord) ∧
      commandOn .uniform s [0xFFFFFFFB#32, 57#32] = some (.res 7#32, [])) :=
  ⟨⟨ready .keygen 0#32 0#32 0#32 0#32
      (([0#32, 3#32, 3#32, 0xFFFFFFFF#32, 0x41#32, 1#32, 6#32] : List Word).map presentWord),
      rfl, ⟨rfl, rfl, rfl, rfl, rfl, rfl, rfl, trivial⟩, by decide⟩,
    ⟨ready .uniform 10#32 0#32 0#32 0#32 (([0xFFFFFFFB#32, 57#32] : List Word).map presentWord),
      rfl, ⟨rfl, rfl, trivial⟩, by decide⟩⟩

/-- For StarvedCommandWaits and EntropyFailureIsFatal: a late word, and the words ending inside a draw. -/
theorem test_witness_words_run_out :
    (∃ s : State, mayRaise .getprime .entropyUnavailable = true ∧
      s.work.getD (firstProgress .getprime s) = .draw (.getPrime 400) ∧
      s.entropy.now.fail = false ∧ s.entropy.now.valid = false) ∧
    (∃ s : State, s.work = none ∧ s.entropy.presents ([0#32].map presentWord) ∧
      commandOn .getprime s [0#32] = none ∧
      ∀ j, 1 ≤ j → (s.entropy.pinsAt j).fail = false ∧ (s.entropy.pinsAt j).valid = false) ∧
    (∃ s : State, s.work = none ∧ s.entropy.presents ([0#32].map presentWord ++ [failing]) ∧
      failing.fail = true ∧ commandOn .keygen s [0#32] = none) := by
  refine ⟨⟨inside .getprime 0#32 0#32 (.draw (.getPrime 400)) [], rfl, rfl, rfl, rfl⟩,
    ⟨ready .getprime 0#32 0#32 0#32 0#32 [presentWord 0#32], rfl, ⟨rfl, trivial⟩, by decide, ?_⟩,
    ⟨ready .keygen 0#32 0#32 0#32 0#32 [presentWord 0#32, failing], rfl, ⟨rfl, rfl, trivial⟩, rfl, by decide⟩⟩
  intro j hj
  obtain ⟨k, rfl⟩ : ∃ k, j = k + 1 := ⟨j - 1, by omega⟩
  have h : (ready .getprime 0#32 0#32 0#32 0#32 [presentWord 0#32]).entropy.pinsAt (k + 1) =
      ⟨false, false, 0#32⟩ := by
    show EntropyPort.now (Feed.afterMany k ⟨[], .again []⟩) = _
    rw [Feed.afterMany_nothing]
    rfl
  rw [h]
  exact ⟨rfl, rfl⟩

/-- A source that presents one word over and over presents it at every handshake. -/
theorem pinsAt_over_and_over (p : EntPins) (k : Nat) : EntropyPort.pinsAt ⟨[], .again [p]⟩ k = p := by
  induction k with
  | zero => rfl
  | succ k ih => exact ih

theorem test_witness_RejectedWordsForEver :
    ∃ s : State, s.work.getD (firstProgress .keygen s) = .draw (.keygenP 1) ∧
      mayRaise .keygen .entropyUnavailable = true ∧ ∀ j, s.entropy.pinsAt j = ⟨false, true, 0xFFFFFFFF#32⟩ :=
  ⟨{ ready .keygen 0#32 0#32 0#32 0#32 [] with entropy := ⟨[], .again [wd 0xFFFFFFFF#32]⟩ }, rfl, rfl,
    pinsAt_over_and_over _⟩

theorem test_witness_KeygenLoopsForEver :
    (∃ s : State, GenPrime 131#32 ∧ s.work = some (.draw (.keygenQ 131#32 1)) ∧
      ∀ j, ∃ v : Word, s.entropy.pinsAt j = ⟨false, true, v⟩ ∧ v.toNat < 0xFFFFFF80 ∧
        128 + v.toNat % 128 = (131#32 : Word).toNat) ∧
    (∃ s : State, GenPrime 131#32 ∧ GenPrime 193#32 ∧ s.work = some (.draw (.keygenE 131#32 193#32)) ∧
      ∀ j, ∃ v : Word, s.entropy.pinsAt j = ⟨false, true, v⟩ ∧
        v.toNat < 0xFFFFFFFF - 0xFFFFFFFF % (((131#32 : Word).toNat - 1) * ((193#32 : Word).toNat - 1) - 1) ∧
        Nat.gcd (v.toNat % (((131#32 : Word).toNat - 1) * ((193#32 : Word).toNat - 1) - 1) + 1)
          (((131#32 : Word).toNat - 1) * ((193#32 : Word).toNat - 1)) ≠ 1) :=
  ⟨⟨{ inside .keygen 0#32 0#32 (.draw (.keygenQ 131#32 1)) [] with entropy := ⟨[], .again [wd 3#32]⟩ },
      genPrime_131, rfl, fun _ => ⟨3#32, pinsAt_over_and_over _ _, by decide, by decide⟩⟩,
    ⟨{ inside .keygen 0#32 0#32 (.draw (.keygenE 131#32 193#32)) [] with entropy := ⟨[], .again [wd 1#32]⟩ },
      genPrime_131, genPrime_193, rfl, fun _ => ⟨1#32, pinsAt_over_and_over _ _, by decide, by decide⟩⟩⟩

/-- Each row of R203 at its boundary, and a completion with `OPERAND_FAULT` from a state with the invariant. -/
theorem test_witness_OperandFaultList :
    (∃ s : State, s.work = none ∧ s.opc = 0#32 ∧ s.opb = 0#32 ∧ s.opaLo = 0#32 ∧
      s.opb.toNat ≤ s.opaLo.toNat ∧ s.opaLo.toNat < 5) ∧
    (∃ s : State, s.work = none ∧ ¬ s.opaLo.toNat < 5 ∧ s.opaLo.toNat % 2 = 0) ∧
    (∃ s t : State, MachineInv s ∧ s.status.busy = true ∧ current s = .ok .range ∧ exec .range s = .next t ∧
      t.status.busy = false ∧ t.status.err = some .operandFault) :=
  ⟨⟨State.reset, by decide⟩, ⟨ready .mrtest 6#32 0#32 0#32 0#32 [], rfl, by decide, by decide⟩,
    ⟨ready .range 5#32 0#32 5#32 0#32 [], _, ready_inv _ _ _ _ _ _, rfl, ready_current _ _ _ _ _ _, rfl,
      by decide, by decide⟩⟩

theorem test_witness_ErrorsOfEachCommand :
    ∃ s t : State, MachineInv s ∧ s.status.busy = true ∧ current s = .ok .modinv ∧ exec .modinv s = .next t ∧
      t.status.busy = false ∧ t.status.err = some .inverseUndefined :=
  ⟨ready .modinv 6#32 0#32 9#32 0#32 [], _, ready_inv _ _ _ _ _ _, rfl, ready_current _ _ _ _ _ _, rfl,
    by decide, by decide⟩

theorem test_witness_ErrorCompletionZeroesDestinations :
    (∃ s : State, mayRaise .keygen .entropyUnavailable = true ∧
      s.work = some (.finished (.raise .primeExhausted))) ∧
    (∃ s t : State, s.status.busy = true ∧ exec .modpow s = .next t ∧ t.status.busy = false ∧
      t.status.err = some .operandFault) ∧
    (∃ s : State, s.status.busy = true ∧ decode s.cmd = .error .opcode) :=
  ⟨⟨inside .keygen 0#32 0#32 (.finished (.raise .primeExhausted)) [], rfl, rfl⟩,
    ⟨ready .modpow 2#32 0#32 2#32 0#32 [], _, rfl, rfl, by decide, by decide⟩,
    ⟨hostWrite 0#4 0#32 State.reset, by decide, by decide⟩⟩

theorem dead_inv : MachineInv dead := by
  constructor <;> simp [dead, State.reset, current, WorkOk]

theorem test_witness_FatalUntilReset :
    ∃ s t : State, MachineInv s ∧ s.status.fatal = true ∧ (∀ x, nextTurn s ≠ .reset x) ∧ step s = .next t :=
  ⟨dead, (step_total dead).choose, dead_inv, rfl, by simp [dead, nextTurn, Feed.nothing], (step_total dead).choose_spec⟩

theorem test_witness_FrameNonDrawing : ∃ s t : State, exec .sieve s = .next t :=
  ⟨ready .sieve 9#32 0#32 0#32 0#32 [], _, rfl⟩

/-- Both outcomes: a handshake and a completion. -/
theorem test_witness_FrameDrawing :
    (∃ s t : State, WorkOk .getprime s ∧ exec .getprime s = .next t ∧ t.status.busy = true ∧ s.status.busy = true) ∧
    (∃ s t : State, WorkOk .uniform s ∧ exec .uniform s = .next t ∧ t.status.busy = false ∧ s.status.busy = true) :=
  ⟨⟨ready .getprime 0#32 0#32 0#32 0#32 [wd 0#32], _, trivial, rfl, by decide, rfl⟩,
    ⟨inside .uniform 10#32 0#32 (.finished (.res 7#32)) [], _, .inl ⟨rfl, by decide⟩, rfl,
      by decide, rfl⟩⟩

/-- Both outcomes: a handshake and a completion. -/
theorem test_witness_FrameKeygen :
    (∃ s t : State, WorkOk .keygen s ∧ exec .keygen s = .next t ∧ t.status.busy = true ∧ s.status.busy = true) ∧
    (∃ s t : State, WorkOk .keygen s ∧ exec .keygen s = .next t ∧ t.status.busy = false ∧ s.status.busy = true) :=
  ⟨⟨ready .keygen 0#32 0#32 0#32 0#32 [wd 0#32], _, trivial, rfl, by decide, rfl⟩,
    ⟨inside .keygen 0#32 0#32 (.finished (.keypair scenario)) [], _, ⟨rfl, scenario_ok⟩, rfl,
      by decide, rfl⟩⟩

theorem test_witness_BusyKeepsDestinations :
    ∃ s t : State, step s = .next t ∧ s.status.busy = true ∧ t.status.busy = true :=
  ⟨ready .getprime 0#32 0#32 0#32 0#32 [wd 0#32], _, step_of .getprime _ _ rfl rfl (decode_word_of _) rfl, rfl,
    by decide⟩

theorem test_witness_HostCannotDisturbCommand :
    ∃ (s t : State) (x : HostTxn), s.status.busy = true ∧ nextTurn s = .host x ∧ step s = .next t :=
  ⟨{ ready .getprime 0#32 0#32 0#32 0#32 [] with turns := ⟨[.host (.write 3#4 1#32)], .free 0⟩ }, _,
    .write 3#4 1#32, rfl, rfl, rfl⟩

/-- A KEYGEN at its end, meeting the invariant. -/
theorem keygen_end_inv : MachineInv (inside .keygen 0#32 0#32 (.finished (.keypair scenario)) []) :=
  inside_inv _ _ _ _ _ ⟨rfl, scenario_ok⟩

theorem test_witness_KeypairWrittenOnlyByKeygen :
    ∃ s t : State, MachineInv s ∧ (∀ x, nextTurn s ≠ .reset x) ∧ step s = .next t ∧ t.kp ≠ s.kp :=
  ⟨inside .keygen 0#32 0#32 (.finished (.keypair scenario)) [], _, keygen_end_inv,
    by simp [inside, ready, nextTurn, Feed.nothing], step_of .keygen _ _ rfl rfl (decode_word_of _) rfl, by decide⟩

/-- Both sides of `ent_req`: an idle core, and a core just accepting GETPRIME with its turn next. -/
theorem test_witness_EntropyTakenOnlyInDraw :
    (∃ s t : State, entReq s = false ∧ step s = .next t) ∧
    (∃ s t : State, entReq s = true ∧ nextTurn s = .core ∧ step s = .next t) :=
  ⟨⟨{ State.reset with turns := .nothing }, _, by decide, rfl⟩,
    ⟨ready .getprime 0#32 0#32 0#32 0#32 [wd 3#32], _, by decide, rfl,
      step_of .getprime _ _ rfl rfl (decode_word_of _) rfl⟩⟩

/-- Each clause: a completion sets `DONE`; a dropped write sets `OVR`, while BUSY and while FATAL. -/
theorem test_witness_FlagsSetOnlyAsStated :
    (∃ s t : State, step s = .next t ∧ t.status.done = true ∧ s.status.done = false) ∧
    (∃ s t : State, step s = .next t ∧ t.status.ovr = true ∧ s.status.ovr = false ∧ s.status.busy = true) ∧
    (∃ s t : State, step s = .next t ∧ t.status.ovr = true ∧ s.status.ovr = false ∧ s.status.fatal = true) :=
  ⟨⟨ready .gcd 7#32 0#32 5#32 0#32 [], _, step_of .gcd _ _ rfl rfl (decode_word_of _) rfl, by decide, rfl⟩,
    ⟨{ ready .getprime 0#32 0#32 0#32 0#32 [] with turns := ⟨[.host (.write 6#4 1#32)], .free 0⟩ }, _, rfl, rfl, rfl, rfl⟩,
    ⟨{ dead with turns := ⟨[.host (.write 0#4 5#32)], .free 0⟩ }, _, rfl, rfl, rfl, rfl⟩⟩

theorem test_witness_StepKeepsInvariant :
    ∃ s t : State, MachineInv s ∧ s.status.busy = true ∧ step s = .next t :=
  ⟨ready .keygen 0#32 0#32 0#32 0#32 [wd 3#32], _, ready_inv _ _ _ _ _ _, rfl,
    step_of .keygen _ _ rfl rfl (decode_word_of _) rfl⟩

/-- For KeygenLeavesValidKeypair and KeypairBounds. -/
theorem test_witness_keygen_completes :
    ∃ s t : State, MachineInv s ∧ s.status.busy = true ∧ decode s.cmd = .ok .keygen ∧ exec .keygen s = .next t ∧
      t.status.busy = false ∧ t.status.err = none :=
  ⟨inside .keygen 0#32 0#32 (.finished (.keypair scenario)) [], _, keygen_end_inv, rfl,
    decode_word_of _, rfl, by decide, by decide⟩

theorem test_witness_CipherRoundTrip : ∃ k : Keypair, KeypairOk k := ⟨scenario, scenario_ok⟩

end Sys2Proof.Machine.Tests
end

/-! PROOFS. Facts about the commands, the host's transactions and the step that the statements of 10_state.md share;
they extend the case lemmas of Laws/Ops.lean. -/
namespace Sys2Proof.Machine

/-! ## Which commands draw -/

theorem draws_iff (i : Instr) :
    draws i = true ↔
      i = .keygen ∨ i = .isprime ∨ i = .mrtest ∨ i = .getprime ∨ i = .uniform ∨ i = .range := by
  cases i <;> decide

theorem draws_eq_false_iff (i : Instr) :
    draws i = false ↔
      i = .encrypt ∨ i = .decrypt ∨ i = .modpow ∨ i = .gcd ∨ i = .modinv ∨ i = .sieve := by
  cases i <;> decide

theorem destOf_eq_res {i : Instr} (hi : i ≠ .keygen) : destOf i = .res := by
  cases i with
  | keygen => exact absurd rfl hi
  | _ => rfl

theorem decode_encode (i : Instr) : decode (encode i) = .ok i := by
  cases i <;> decide

/-! ## The start and the end of a command -/

/-- Taking a turn changes nothing a command reads. -/
theorem firstProgress_takeTurn (i : Instr) (s : State) : firstProgress i (takeTurn s) = firstProgress i s := by
  cases i <;> rfl

/-- No command reads the working state or the entropy port before its first draw. -/
theorem firstProgress_work_entropy (i : Instr) (s : State) (w : Option Progress) (e : EntropyPort) :
    firstProgress i { s with work := w, entropy := e } = firstProgress i s := by
  cases i <;> rfl

/-- Before its first draw a command ends with a value for `RES` or with an error its row of 60_exceptions.md R206
names; KEYGEN does not end there. -/
theorem firstProgress_finished {i : Instr} {s : State} {r : Result} (h : firstProgress i s = .finished r) :
    i ≠ .keygen ∧ ((∃ v, r = .res v) ∨ ∃ e, r = .raise e ∧ mayRaise i e = true) := by
  refine ⟨?_, ?_⟩
  · rintro rfl
    cases h
  cases i with
  | keygen | getprime => cases h
  | gcd | sieve => exact .inl ⟨_, (Progress.finished.inj h).symm⟩
  | encrypt | decrypt | modpow =>
    obtain rfl := Progress.finished.inj h
    by_cases hc : opC s = 0#32 <;> simp [encryptResult, decryptResult, modpowResult, hc, mayRaise]
  | modinv =>
    obtain rfl := Progress.finished.inj h
    unfold modinvResult
    (repeat' split) <;> simp [mayRaise]
  | isprime | mrtest | uniform | range =>
    simp only [firstProgress, startIsprime, startMrtest, startUniform, startRange] at h
    split at h <;> cases h <;> simp [mayRaise]

/-- At its end a command has the outcome it came to before its first draw, or one its working state holds. -/
theorem finished_cases {i : Instr} {s : State} {r : Result} (hw : WorkOk i s)
    (h : s.work.getD (firstProgress i s) = .finished r) : firstProgress i s = .finished r ∨ OutcomeOk i s r := by
  unfold WorkOk at hw
  cases hwork : s.work with
  | none => exact .inl (by simpa [hwork] using h)
  | some p =>
    obtain rfl : p = .finished r := by simpa [hwork] using h
    exact .inr (by simpa [hwork] using hw)

theorem finished_keypair {i : Instr} {s : State} {k : Keypair} (hw : WorkOk i s)
    (h : s.work.getD (firstProgress i s) = .finished (.keypair k)) : i = .keygen := by
  obtain h | h := finished_cases hw h
  · simpa using (firstProgress_finished h).2
  · exact h.1

theorem finished_res {i : Instr} {s : State} {v : Word} (hw : WorkOk i s)
    (h : s.work.getD (firstProgress i s) = .finished (.res v)) : i ≠ .keygen := by
  obtain h | h := finished_cases hw h
  · exact (firstProgress_finished h).1
  · rintro rfl
    simp [OutcomeOk] at h

/-- What a completion that writes `RES` leaves unchanged. -/
theorem complete_res_frame {r : Result} (hr : ∀ k, r ≠ .keypair k) (s : State) :
    complete .res r s = { s with
      res := (complete .res r s).res, work := none
      status := { s.status with busy := false, done := true, err := (complete .res r s).status.err,
                                fatal := (complete .res r s).status.fatal } } := by
  cases r with
  | res v => simp [complete_res_eq, okRes]
  | raise e => simp [raise_res_eq, errRes, errStatus]
  | keypair k => exact absurd rfl (hr k)

/-- What a completion that writes the Keypair registers leaves unchanged. -/
theorem complete_keypair_frame {r : Result} (hr : ∀ v, r ≠ .res v) (s : State) :
    complete .keypair r s = { s with
      kp := (complete .keypair r s).kp, work := none
      status := { s.status with busy := false, done := true, err := (complete .keypair r s).status.err,
                                fatal := (complete .keypair r s).status.fatal } } := by
  cases r with
  | res v => exact absurd rfl (hr v)
  | raise e => simp [raise_keypair_eq, errKeys, errStatus]
  | keypair k => simp [complete_keypair_eq, okKeys]

/-! ## The host -/

/-- No host transaction writes a destination register or takes entropy (20_memory.md R62, R65). -/
theorem hostTurn_keeps (x : HostTxn) (s : State) :
    (hostTurn x s).res = s.res ∧ (hostTurn x s).kp = s.kp ∧ (hostTurn x s).entropy = s.entropy := by
  cases x with
  | read idx => exact ⟨rfl, rfl, rfl⟩
  | write idx v =>
    obtain ⟨h, -⟩ | ⟨h, -⟩ | ⟨h, -⟩ | ⟨h, -⟩ | ⟨-, h | h | h | h⟩ | h := hostWrite_cases idx v s <;>
      simp [hostTurn, h]

/-- No host write sets `DONE`. -/
theorem hostWrite_done {idx : RegIdx} {v : Word} {s : State} (h : (hostWrite idx v s).status.done = true) :
    s.status.done = true := by
  obtain ⟨hw, -⟩ | ⟨hw, -⟩ | ⟨hw, -⟩ | ⟨hw, -⟩ | ⟨-, hw | hw | hw | hw⟩ | hw := hostWrite_cases idx v s <;>
    simp_all

/-- Only a dropped host write sets `OVR` (10_state.md R34, 60_exceptions.md R201). -/
theorem hostWrite_ovr {idx : RegIdx} {v : Word} {s : State} (h : (hostWrite idx v s).status.ovr = true)
    (hs : s.status.ovr = false) :
    (s.status.busy = true ∧ (idx = 0#4 ∨ idx = 3#4 ∨ idx = 4#4 ∨ idx = 5#4 ∨ idx = 6#4)) ∨
      (s.status.fatal = true ∧ idx = 0#4) := by
  obtain ⟨hw, -⟩ | ⟨-, hdrop⟩ | ⟨hw, -⟩ | ⟨hw, -⟩ | ⟨-, hw | hw | hw | hw⟩ | hw := hostWrite_cases idx v s
  case inr.inl => exact hdrop
  all_goals simp [hw, hs] at h

/-- `STATUS` as a word, bit after bit from `BUSY` up (R30). -/
theorem toWord_eq_concat (st : Status) :
    st.toWord = ((((0#24 ++ errCode st.err).concat st.ovr).concat st.fatal).concat st.done).concat st.busy := rfl

/-! ## One step of the machine -/

/-- Everything one step can do, the core's turn told apart: an idle core, a handshake or a completion. -/
theorem step_outcomes {s t : State} (h : step s = .next t) :
    (∃ x, nextTurn s = .reset x ∧ t = applyReset (takeTurn s)) ∨
    (∃ x, nextTurn s = .host x ∧ t = hostTurn x (takeTurn s)) ∨
    (nextTurn s = .core ∧ s.status.busy = false ∧ t = takeTurn s) ∨
    (∃ i pt, nextTurn s = .core ∧ s.status.busy = true ∧ decode s.cmd = .ok i ∧ draws i = true ∧
      s.work.getD (firstProgress i s) = .draw pt ∧ t = handshake pt (takeTurn s)) ∨
    (∃ d r, nextTurn s = .core ∧ s.status.busy = true ∧ t = complete d r (takeTurn s)) := by
  obtain h | h | ⟨hn, h⟩ := step_cases s t h
  · exact .inl h
  · exact .inr (.inl h)
  refine .inr (.inr ?_)
  obtain ⟨hb, rfl⟩ | ⟨i, hb, hi, h⟩ | ⟨e, hb, -, rfl⟩ := coreStep_cases _ _ h
  · exact .inl ⟨hn, hb, rfl⟩
  · obtain ⟨pt, hd, hp, rfl⟩ | ⟨r, -, -, rfl⟩ | ⟨r, -, -, rfl⟩ := exec_cases i _ t h
    · exact .inr (.inl ⟨i, pt, hn, hb, hi, hd, firstProgress_takeTurn i s ▸ hp, rfl⟩)
    · exact .inr (.inr ⟨_, r, hn, hb, rfl⟩)
    · exact .inr (.inr ⟨_, r, hn, hb, rfl⟩)
  · exact .inr (.inr ⟨.nothing, .raise .illegalCommand, hn, hb, rfl⟩)

theorem entReq_iff (s : State) :
    entReq s = true ↔ s.status.busy = true ∧ ∃ i pt,
      draws i = true ∧ decode s.cmd = .ok i ∧ s.work.getD (firstProgress i s) = .draw pt := by
  unfold entReq current
  cases hc : decode s.cmd with
  | error e => simp
  | ok i =>
    cases hd : draws i with
    | true =>
      simp only [progress_drawing i s hd, Except.ok.injEq, Bool.and_eq_true, and_congr_right_iff]
      cases hp : s.work.getD (firstProgress i s) <;> simp [hd, hp]
    | false =>
      obtain ⟨r, hr⟩ := progress_nonDrawing i s hd
      simp [hr, hd]

end Sys2Proof.Machine

/-! PROOFS. The pseudocode on a list of entropy words against the machine's draws: what a command in flight makes of
the words it is presented with, one lemma a function of Machine/Stream.lean (10_state.md R39, 20_memory.md R69). -/
namespace Sys2Proof.Machine

/-! ## Words at a draw -/

/-- A command at `p` that is presented the words `ws` one after the other comes to `q` with the words `rest` left. -/
inductive Reaches : Progress → List Word → List Word → Progress → Prop
  | refl (p : Progress) (ws : List Word) : Reaches p ws ws p
  | word {pt : Point} {v : Word} {ws rest : List Word} {q : Progress}
      (h : Reaches (drawOutcome pt (presentWord v)) ws rest q) : Reaches (.draw pt) (v :: ws) rest q

section
variable {α : Type} {p q : Progress} {pt : Point} {ws ws' rest : List Word} {next : α → Progress}
  {o : Option (α × List Word)}

theorem Reaches.trans (h : Reaches p ws ws' q) {q' : Progress} (h' : Reaches q ws' rest q') :
    Reaches p ws rest q' := by
  induction h with
  | refl => exact h'
  | word _ ih => exact .word (ih h')

/-- A command at its end takes no word. -/
theorem Reaches.finished_iff {r : Result} : Reaches (.finished r) ws rest q ↔ ws = rest ∧ q = .finished r := by
  constructor
  · rintro ⟨⟩
    exact ⟨rfl, rfl⟩
  · rintro ⟨rfl, rfl⟩
    exact .refl _ _

theorem Reaches.length_le (h : Reaches p ws rest q) : rest.length ≤ ws.length := by
  induction h with
  | refl => exact le_rfl
  | word _ ih => exact ih.trans (Nat.le_succ _)

theorem Reaches.nil_inv (h : Reaches p [] rest q) : q = p := by
  cases h
  rfl

/-- A word is taken only inside a draw. -/
theorem Reaches.word_inv {v : Word} (h : Reaches p (v :: ws) [] q) :
    ∃ pt, p = .draw pt ∧ Reaches (drawOutcome pt (presentWord v)) ws [] q := by
  cases h with
  | word h => exact ⟨_, rfl, h⟩

/-- Only a word ends a draw. -/
theorem Reaches.length_lt {r : Result} (h : Reaches (.draw pt) ws rest (.finished r)) :
    rest.length < ws.length := by
  cases h with
  | word h => exact Nat.lt_succ_of_le h.length_le

/-- A command at `p` does with the words `ws` what the answer `o` of a pseudocode function says: with a value it goes
on at `next` of it on the words left, and where the words run out first it stands in a draw. -/
def Follows (p : Progress) (ws : List Word) (o : Option (α × List Word)) (next : α → Progress) : Prop :=
  match o with
  | none => ∃ pt, Reaches p ws [] (.draw pt)
  | some (a, rest) => Reaches p ws rest (next a)

@[simp] theorem follows_none : Follows p ws none next ↔ ∃ pt, Reaches p ws [] (.draw pt) := Iff.rfl
@[simp] theorem follows_some (a : α) : Follows p ws (some (a, rest)) next ↔ Reaches p ws rest (next a) := Iff.rfl

theorem Reaches.follows (h : Reaches p ws ws' q) (h' : Follows q ws' o next) : Follows p ws o next := by
  match o, h' with
  | none, ⟨pt, h'⟩ => exact ⟨pt, h.trans h'⟩
  | some _, h' => exact h.trans h'

theorem Follows.of_draw {v : Word} (h : Follows (drawOutcome pt (presentWord v)) ws o next) :
    Follows (.draw pt) (v :: ws) o next :=
  Reaches.follows (.word (.refl _ _)) h

end

/-! ## RandomSource -/

theorem uniformOn_follows (pt : Point) (ws : List Word) :
    Follows (.draw pt) ws (uniformOn pt.max ws) (resume pt) := by
  induction ws with
  | nil => exact ⟨pt, .refl _ _⟩
  | cons v ws ih =>
    apply Follows.of_draw
    cases ha : uniformAccepts pt.max v with
    | true => simpa [uniformOn, presentWord, ha, drawOutcome_accept] using Reaches.refl _ _
    | false => simpa [uniformOn, presentWord, ha, drawOutcome_reject] using ih

theorem rangeOn_follows {pt : Point} {a b : Word} {next : Word → Progress} (hmax : pt.max = b - a)
    (hnext : ∀ u, resume pt u = next (rangeValue a u)) (ws : List Word) :
    Follows (.draw pt) ws (rangeOn a b ws) next := by
  have h := uniformOn_follows pt ws
  rw [hmax] at h
  unfold rangeOn
  cases hu : uniformOn (b - a) ws with
  | none => rwa [hu] at h
  | some x =>
    obtain ⟨u, rest⟩ := x
    rw [hu] at h
    simpa [← hnext] using h

theorem rangeOn_length {a b c : Word} {ws rest : List Word} (h : rangeOn a b ws = some (c, rest)) :
    rest.length < ws.length := by
  have hf := rangeOn_follows (pt := .range a b) (next := fun c => .finished (.res c)) rfl (fun _ => rfl) ws
  rw [h] at hf
  exact hf.length_lt

/-- What `uniform` gives is an accepted word's value. -/
theorem uniformOn_value {max u : Word} {ws rest : List Word} (h : uniformOn max ws = some (u, rest)) :
    ∃ v, u = uniformValue max v := by
  induction ws with
  | nil => simp [uniformOn] at h
  | cons v ws ih =>
    unfold uniformOn at h
    split at h
    · simp only [Option.some.injEq, Prod.mk.injEq] at h
      exact ⟨v, h.1.symm⟩
    · exact ih h

/-! ## Primality Engine -/

/-- Where `miller_rabin` stands after `round` passed rounds (41_primality.md R124). -/
def mrPassed (n : Word) (s : Nat) (d : Word) (round : Nat) : Progress :=
  if round < Config.mrRounds then .draw (.millerRabin n s d (round + 1)) else .finished (.res (boolWord true))

theorem mrNext_eq (n : Word) (s : Nat) (d : Word) (round : Nat) (base : Word) :
    mrNext n s d round base =
      if mrRoundPasses mrREnd n s d base then mrPassed n s d round else .finished (.res (boolWord false)) := rfl

/-- The last `k` rounds, after `round` passed ones. -/
theorem mrRoundsOn_follows (n : Word) (s : Nat) (d : Word) {k round : Nat} (hk : round + k = Config.mrRounds)
    (ws : List Word) :
    Follows (mrPassed n s d round) ws (mrRoundsOn n s d k ws) fun b => .finished (.res (boolWord b)) := by
  induction k generalizing round ws with
  | zero => simp [mrPassed, mrRoundsOn, ← hk, Reaches.refl]
  | succ k ih =>
    have hdraw : mrPassed n s d round = .draw (.millerRabin n s d (round + 1)) := if_pos (by omega)
    have h := rangeOn_follows (pt := .millerRabin n s d (round + 1)) (next := mrNext n s d (round + 1))
      rfl (fun _ => rfl) ws
    rw [hdraw, mrRoundsOn]
    cases hr : rangeOn 2#32 (n - 1#32) ws with
    | none => rwa [hr] at h
    | some x =>
      obtain ⟨base, rest⟩ := x
      rw [hr] at h
      refine Reaches.follows h ?_
      cases hp : mrRoundPasses mrREnd n s d base with
      | true => simpa [mrNext_eq, hp] using ih (by omega) rest
      | false => simp [mrNext_eq, hp, Reaches.refl]

theorem millerRabinOn_follows (n : Word) (ws : List Word) :
    Follows (mrStart n) ws (millerRabinOn n ws) fun b => .finished (.res (boolWord b)) :=
  mrRoundsOn_follows n (decompose n).1 (decompose n).2 (k := Config.mrRounds) (round := 0) rfl ws

/-- The sieve decides every candidate of `get_prime` (41_primality.md R126). -/
theorem sieve_candidate {c : Word} (h1 : 128 ≤ c.toNat) (h2 : c.toNat ≤ 255) : sieve c ≠ .undecided := by
  rw [show c = word c.toNat by simp]
  generalize c.toNat = n at h1 h2
  interval_cases n <;> decide

/-- On what `range(128, 256)` gives, `is_probable_prime` is the machine's test and takes no word (R126). -/
theorem isProbablePrimeOn_candidate {c : Word} {ws rest : List Word}
    (h : rangeOn (word Config.primeLow) (word Config.primeHigh) ws = some (c, rest)) :
    isProbablePrimeOn c rest = some (candidatePasses c, rest) := by
  obtain ⟨v, rfl⟩ : ∃ v, c = candidate (uniformValue 128#32 v) := by
    unfold rangeOn at h
    split at h
    · cases h
    · next u _ hu =>
      obtain ⟨v, rfl⟩ := uniformOn_value hu
      injection h with h
      exact ⟨v, (congrArg Prod.fst h).symm⟩
  obtain ⟨hlow, hhigh⟩ := candidate_range v
  have hs := sieve_candidate hlow hhigh
  cases hv : sieve (candidate (uniformValue 128#32 v)) with
  | rejected | prime => simp [isProbablePrimeOn, candidatePasses, hv]
  | undecided => exact absurd hv hs

/-- The draws `pt 1`, `pt 2`, … are one call of `get_prime`, which goes on at `found` of the prime (R126). -/
structure GetPrimeCall (pt : Nat → Point) (found : Word → Progress) : Prop where
  max_eq : ∀ a, (pt a).max = word Config.primeHigh - word Config.primeLow
  resume_eq : ∀ a u, resume (pt a) u =
    if candidatePasses (candidate u) then found (candidate u) else nextAttempt a pt

/-- How a command goes on with the answer of `get_prime`: `none` is exhaustion (60_exceptions.md R207). -/
def afterGetPrime (found : Word → Progress) : Option Word → Progress
  | some c => found c
  | none => .finished (.raise .primeExhausted)

section
variable {pt : Nat → Point} {found : Word → Progress} (hc : GetPrimeCall pt found)
include hc

/-- The last `k` attempts, after `a` rejected candidates. -/
theorem attemptsOn_follows {k a : Nat} (hk : a + k = Config.primeAttempts) (ws : List Word) :
    Follows (nextAttempt a pt) ws (attemptsOn k ws) (afterGetPrime found) := by
  induction k generalizing a ws with
  | zero => simp [nextAttempt, attemptsOn, afterGetPrime, ← hk, Reaches.refl]
  | succ k ih =>
    have hdraw : nextAttempt a pt = .draw (pt (a + 1)) := if_pos (by omega)
    have h := rangeOn_follows (pt := pt (a + 1))
      (next := fun c => if candidatePasses c then found c else nextAttempt (a + 1) pt)
      (hc.max_eq _) (hc.resume_eq _) ws
    rw [hdraw, attemptsOn]
    cases hr : rangeOn (word Config.primeLow) (word Config.primeHigh) ws with
    | none => rwa [hr] at h
    | some x =>
      obtain ⟨c, rest⟩ := x
      rw [hr] at h
      refine Reaches.follows h ?_
      simp only [isProbablePrimeOn_candidate hr]
      cases candidatePasses c with
      | true => simp [afterGetPrime, Reaches.refl]
      | false => simpa using ih (by omega) rest

theorem getPrimeOn_follows (ws : List Word) :
    Follows (.draw (pt 1)) ws (getPrimeOn ws) (afterGetPrime found) :=
  attemptsOn_follows hc (k := Config.primeAttempts) (a := 0) rfl ws

end

theorem getPrimeCall_getPrime : GetPrimeCall .getPrime fun c => .finished (.res c) :=
  ⟨fun _ => rfl, fun _ _ => rfl⟩

theorem getPrimeOn_length {c : Option Word} {ws rest : List Word} (h : getPrimeOn ws = some (c, rest)) :
    rest.length < ws.length := by
  have hf := getPrimeOn_follows getPrimeCall_getPrime ws
  rw [h] at hf
  cases c <;> exact hf.length_lt

/-! ## Key Generator -/

theorem getPrimeCall_keygenP : GetPrimeCall .keygenP fun p => .draw (.keygenQ p 1) :=
  ⟨fun _ => rfl, fun _ _ => rfl⟩

theorem getPrimeCall_keygenQ (p : Word) :
    GetPrimeCall (.keygenQ p) fun q => if q ≠ p then .draw (.keygenE p q) else .draw (.keygenQ p 1) :=
  ⟨fun _ => rfl, fun _ _ => rfl⟩

/-- More calls than words are all the calls the words can feed (43_keygen.md R171 step 2). -/
theorem distinctOn_follows (p : Word) {k : Nat} {ws : List Word} (hk : ws.length < k) :
    Follows (.draw (.keygenQ p 1)) ws (distinctOn p k ws) (afterGetPrime fun q => .draw (.keygenE p q)) := by
  induction k generalizing ws with
  | zero => omega
  | succ k ih =>
    have h := getPrimeOn_follows (getPrimeCall_keygenQ p) ws
    unfold distinctOn
    match hg : getPrimeOn ws with
    | none => rwa [hg] at h
    | some (none, rest) => rwa [hg] at h
    | some (some q, rest) =>
      have hlen := getPrimeOn_length hg
      rw [hg] at h
      refine Reaches.follows h ?_
      by_cases hq : q = p
      · simpa [afterGetPrime, hq] using ih (by omega)
      · simp [afterGetPrime, hq, Reaches.refl]

/-- More candidates than words are all the candidates the words can feed (R171 step 5). -/
theorem exponentOn_follows (p q : Word) {k : Nat} {ws : List Word} (hk : ws.length < k) :
    Follows (.draw (.keygenE p q)) ws (exponentOn (keyTotient p q) k ws) (tryExponent p q) := by
  induction k generalizing ws with
  | zero => omega
  | succ k ih =>
    have h := rangeOn_follows (pt := .keygenE p q) (next := tryExponent p q) rfl (fun _ => rfl) ws
    unfold exponentOn
    match hr : rangeOn 1#32 (keyTotient p q) ws with
    | none => rwa [hr] at h
    | some (e, rest) =>
      have hlen := rangeOn_length hr
      rw [hr] at h
      refine Reaches.follows h ?_
      by_cases he : gcd e (keyTotient p q) = 1#32
      · simp [he, Reaches.refl]
      · simpa [he, tryExponent] using ih (by omega)

theorem exponentOn_coprime {t e : Word} {k : Nat} {ws rest : List Word}
    (h : exponentOn t k ws = some (e, rest)) : gcd e t = 1#32 := by
  induction k generalizing ws with
  | zero => simp [exponentOn] at h
  | succ k ih =>
    unfold exponentOn at h
    split at h
    · cases h
    · split at h
      · next he =>
        simp only [Option.some.injEq, Prod.mk.injEq] at h
        exact h.1 ▸ he
      · exact ih h

theorem keysOn_follows (p q : Word) (ws : List Word) :
    Follows (.draw (.keygenE p q)) ws (keysOn p q ws) .finished := by
  have h := exponentOn_follows p q (Nat.lt_succ_self ws.length)
  unfold keysOn
  match he : exponentOn (keyTotient p q) (ws.length + 1) ws with
  | none => rwa [he] at h
  | some (e, rest) =>
    rw [he] at h
    refine Reaches.follows h ?_
    cases hd : modularInverse e (keyTotient p q) <;>
      simp [tryExponent, exponentOn_coprime he, hd, Reaches.refl]

theorem generateKeypairOn_follows (ws : List Word) :
    Follows (.draw (.keygenP 1)) ws (generateKeypairOn ws) .finished := by
  have hp := getPrimeOn_follows getPrimeCall_keygenP ws
  unfold generateKeypairOn
  match hg : getPrimeOn ws with
  | none => rwa [hg] at hp
  | some (none, rest) => rwa [hg] at hp
  | some (some p, rest) =>
    rw [hg] at hp
    refine Reaches.follows hp ?_
    dsimp only
    have hq := distinctOn_follows p (Nat.lt_succ_self rest.length)
    match hd : distinctOn p (rest.length + 1) rest with
    | none => rwa [hd] at hq
    | some (none, rest') => rwa [hd] at hq
    | some (some q, rest') =>
      rw [hd] at hq
      exact Reaches.follows hq (keysOn_follows p q rest')

/-! ## Commands -/

section
variable {p : Progress} {ws : List Word}

theorem Follows.verdictOn {o : Option (Bool × List Word)}
    (h : Follows p ws o fun b => .finished (.res (boolWord b))) :
    Follows p ws (verdictOn o) .finished := by
  cases o <;> exact h

theorem Follows.valueOn {o : Option (Word × List Word)} (h : Follows p ws o fun v => .finished (.res v)) :
    Follows p ws (valueOn o) .finished := by
  cases o <;> exact h

end

theorem isProbablePrimeOn_follows (s : State) (ws : List Word) :
    Follows (startIsprime s) ws (isProbablePrimeOn (opA s) ws) fun b => .finished (.res (boolWord b)) := by
  unfold startIsprime isProbablePrimeOn
  cases sieve (opA s) with
  | rejected | prime => exact .refl _ _
  | undecided => exact millerRabinOn_follows _ _

/-- Every command just accepted does with the words what its pseudocode says (R39). -/
theorem commandOn_follows (i : Instr) (s : State) (ws : List Word) :
    Follows (firstProgress i s) ws (commandOn i s ws) .finished := by
  cases i with
  | encrypt | decrypt | modpow | gcd | modinv | sieve => exact .refl _ _
  | keygen => exact generateKeypairOn_follows ws
  | isprime => exact (isProbablePrimeOn_follows s ws).verdictOn
  | mrtest =>
    simp only [commandOn, firstProgress, startMrtest]
    split
    · exact .refl _ _
    · exact (millerRabinOn_follows (opA s) ws).verdictOn
  | getprime =>
    have h := getPrimeOn_follows getPrimeCall_getPrime ws
    simp only [commandOn]
    match hg : getPrimeOn ws with
    | none | some (none, _) | some (some _, _) => rwa [hg] at h
  | uniform =>
    simp only [commandOn, firstProgress, startUniform]
    split
    · exact .refl _ _
    · exact (uniformOn_follows (.uniform (opA s)) ws).valueOn
  | range =>
    simp only [commandOn, firstProgress, startRange]
    split
    · exact .refl _ _
    · exact (rangeOn_follows (pt := .range (opA s) (opB s)) rfl (fun _ => rfl) ws).valueOn

/-! ## Core steps -/

/-- `m` core steps and then `n` more. -/
theorem execTimes_add {i : Instr} {s t : State} {m : Nat} (n : Nat) (h : execTimes m i s = .next t) :
    execTimes (m + n) i s = execTimes n i t := by
  induction m generalizing s with
  | zero =>
    cases h
    rw [Nat.zero_add]
  | succ m ih =>
    obtain ⟨u, hu⟩ := exec_total i s
    rw [Nat.add_right_comm]
    simp only [execTimes, hu] at h ⊢
    exact ih h

theorem execTimes_one (i : Instr) (s : State) : execTimes 1 i s = exec i s := by
  obtain ⟨t, ht⟩ := exec_total i s
  simp [execTimes, ht]

/-- A drawing command presented exactly the words `ws` takes one step a word, and only its working state and the
entropy port change. -/
theorem execTimes_of_reaches {i : Instr} {s : State} {ws : List Word} {q : Progress} (hd : draws i = true)
    (h : Reaches (s.work.getD (firstProgress i s)) ws [] q) (hp : s.entropy.presents (ws.map presentWord)) :
    ∃ w, w.getD (firstProgress i s) = q ∧
      execTimes ws.length i s = .next { s with work := w, entropy := s.entropy.afterMany ws.length } := by
  induction ws generalizing s with
  | nil => exact ⟨s.work, h.nil_inv.symm, rfl⟩
  | cons v ws ih =>
    obtain ⟨hnow, hrest⟩ := hp
    obtain ⟨pt, hpt, h⟩ := h.word_inv
    have hstep := exec_draw i s pt hd hpt
    obtain ⟨w, hw, he⟩ := ih (s := handshake pt s) (by simpa [hnow] using h) hrest
    refine ⟨w, by rwa [handshake, firstProgress_work_entropy] at hw, ?_⟩
    simpa [execTimes, hstep, handshake] using he

end Sys2Proof.Machine

/-! PROOFS. The statements of 10_state.md. -/
namespace Sys2Proof.Machine

/-! ## Commands against the pseudocode -/

/-- Settles O39, from `commandOn_follows`. -/
theorem commandFollowsPseudocode : Obligations.CommandFollowsPseudocode := by
  intro i s ws r hwork hp hr
  have h := commandOn_follows i s ws
  rw [hr] at h
  cases hd : draws i with
  | true =>
    obtain ⟨w, hw, he⟩ := execTimes_of_reaches hd (by rwa [hwork]) hp
    rw [execTimes_add 1 he, execTimes_one, exec_finished i _ r hd (by rwa [firstProgress_work_entropy])]
    exact congrArg _ (complete_work _ _ { s with entropy := s.entropy.afterMany ws.length } w)
  | false =>
    obtain ⟨r', hfirst, hexec⟩ := exec_nonDrawing i s hd
    rw [hfirst] at h
    obtain ⟨rfl, hrr⟩ := Reaches.finished_iff.mp h
    cases hrr
    rw [destOf_eq_res (by rintro rfl; cases hd)]
    exact (execTimes_one i s).trans hexec

/-! ## What each command leaves unchanged -/

/-- Settles O48, from `firstProgress_finished`: what ends there is no `EntropyUnavailable`, so `FATAL` stays. -/
theorem frameNonDrawing : Obligations.FrameNonDrawing := by
  intro i s t hi h
  obtain ⟨r, hfirst, hexec⟩ := exec_nonDrawing i s ((draws_eq_false_iff i).mpr hi)
  obtain rfl : complete .res r s = t := Host.Outcome.next.inj (hexec.symm.trans h)
  obtain ⟨-, ⟨v, rfl⟩ | ⟨e, rfl, he⟩⟩ := firstProgress_finished hfirst
  · simp [complete_res_eq, okRes]
  · have hne : e ≠ .entropyUnavailable := by
      rintro rfl
      exact absurd he (by simpa using (draws_eq_false_iff i).mpr hi)
    simp [raise_res_eq, errRes, errStatus, hne]

/-- Settles O49: a completion of these commands holds no Keypair. -/
theorem frameDrawing : Obligations.FrameDrawing := by
  intro i s t hi hw h
  have hne : i ≠ .keygen := by rintro rfl; simp at hi
  obtain ⟨pt, -, -, rfl⟩ | ⟨r, -, hr, rfl⟩ | ⟨r, hd, -, -⟩ := exec_cases i s t h
  · exact .inl rfl
  · rw [destOf_eq_res hne]
    refine .inr (complete_res_frame ?_ s)
    rintro k rfl
    exact hne (finished_keypair hw hr)
  · rw [(draws_iff i).mpr (.inr hi)] at hd
    cases hd

/-- Settles O50: a completion of KEYGEN holds no value for `RES`. -/
theorem frameKeygen : Obligations.FrameKeygen := by
  intro s t hw h
  obtain ⟨pt, -, -, rfl⟩ | ⟨r, -, hr, rfl⟩ | ⟨r, hd, -, -⟩ := exec_cases .keygen s t h
  · exact .inl rfl
  · refine .inr (complete_keypair_frame ?_ s)
    rintro v rfl
    exact finished_res hw hr rfl
  · cases hd

/-! ## The core's turn, and a command word placed -/

/-- Settles O4: the turn taken is `takeTurn`, which leaves `CMD` and `BUSY`. -/
theorem stepRunsCurrentCommand : Obligations.StepRunsCurrentCommand := by
  intro s i hb hi hn
  have hcur : current (takeTurn s) = .ok i := hi
  simp only [step, hn, coreStep, takeTurn_status, hb, if_true, hcur]
  rfl

/-- Settles O6, by O4 on the state in which the word is placed. -/
theorem placedCommandRuns : Obligations.PlacedCommandRuns := by
  intro s i
  have hplace : s.withFetchWord 32 (encode i).toNat = loadCommand (encode i) s := by
    rw [State.withFetchWord, Nat.mod_eq_of_lt (encode i).isLt]
    simp
  rw [hplace]
  exact stepRunsCurrentCommand _ i rfl (decode_encode i) rfl

/-! ## Whole-machine rules -/

/-- Settles O51: what writes a destination clears `BUSY`. -/
theorem busyKeepsDestinations : Obligations.BusyKeepsDestinations := by
  intro s t h hs ht
  obtain ⟨x, -, rfl⟩ | ⟨x, -, rfl⟩ | ⟨-, -, rfl⟩ | ⟨i, pt, -, -, -, -, -, rfl⟩ | ⟨d, r, -, -, rfl⟩ :=
    step_outcomes h
  · simp at ht
  · obtain ⟨hres, hkp, -⟩ := hostTurn_keeps x (takeTurn s)
    exact ⟨hres, hkp⟩
  · exact ⟨rfl, rfl⟩
  · exact ⟨rfl, rfl⟩
  · simp [complete_ends] at ht

/-- A command other than KEYGEN keeps the Keypair registers (10_state.md R27), by the frames. -/
theorem exec_keeps_kp {i : Instr} {s t : State} (hi : i ≠ .keygen) (hw : WorkOk i s) (h : exec i s = .next t) :
    t.kp = s.kp := by
  cases hd : draws i with
  | true =>
    obtain ht | ht := frameDrawing i s t (((draws_iff i).mp hd).resolve_left hi) hw h <;> rw [ht]
  | false => rw [frameNonDrawing i s t ((draws_eq_false_iff i).mp hd) h]

/-- Settles O53: among the core's steps only a completion writes `KP_*`, and by the frames only KEYGEN's. -/
theorem keypairWrittenOnlyByKeygen : Obligations.KeypairWrittenOnlyByKeygen := by
  intro s t hinv hreset h hkp
  obtain ⟨x, hx, -⟩ | ⟨x, -, rfl⟩ | ⟨-, h⟩ := step_cases s t h
  · exact absurd hx (hreset x)
  · exact absurd (hostTurn_keeps x (takeTurn s)).2.1 hkp
  obtain ⟨-, rfl⟩ | ⟨i, hb, hi, h⟩ | ⟨e, -, -, rfl⟩ := coreStep_cases _ _ h
  · exact absurd rfl hkp
  · have hw : WorkOk i (takeTurn s) := hinv.work_fits i hi
    obtain rfl : i = .keygen := by
      by_contra hne
      exact hkp (exec_keeps_kp (s := takeTurn s) hne hw h)
    obtain ⟨pt, -, -, rfl⟩ | ⟨r, -, -, rfl⟩ | ⟨r, hd, -, -⟩ := exec_cases .keygen _ t h
    · exact absurd rfl hkp
    · obtain ⟨hbusy, hdone, -⟩ := complete_ends (destOf .keygen) r (takeTurn s)
      exact ⟨hb, hbusy, hdone, hi⟩
    · cases hd
  · exact absurd rfl hkp

/-- Settles O54: of all steps only a handshake takes an entry, and `ent_req` is 1 where a core turn is one. -/
theorem entropyTakenOnlyInDraw : Obligations.EntropyTakenOnlyInDraw := by
  refine ⟨fun s => by simp only [entReq_iff, draws_iff], ?_, ?_⟩
  · intro s t hreq h
    obtain ⟨x, -, rfl⟩ | ⟨x, -, rfl⟩ | ⟨-, -, rfl⟩ | ⟨i, pt, -, hb, hi, hd, hp, rfl⟩ | ⟨d, r, -, -, rfl⟩ :=
      step_outcomes h
    · rfl
    · exact (hostTurn_keeps x (takeTurn s)).2.2
    · rfl
    · rw [(entReq_iff s).mpr ⟨hb, i, pt, hd, hi, hp⟩] at hreq
      cases hreq
    · simp [complete_keeps]
  · intro s t hreq hn h
    obtain ⟨hb, i, pt, hd, hi, hp⟩ := (entReq_iff s).mp hreq
    rw [stepRunsCurrentCommand s i hb hi hn] at h
    have hp' : (takeTurn s).work.getD (firstProgress i (takeTurn s)) = .draw pt := by
      rwa [firstProgress_takeTurn]
    obtain rfl : handshake pt (takeTurn s) = t := Host.Outcome.next.inj ((exec_draw i _ pt hd hp').symm.trans h)
    rfl

/-- Settles O55: a completion sets `DONE` and clears `BUSY`; `OVR` is set by `dropWrite` alone. -/
theorem flagsSetOnlyAsStated : Obligations.FlagsSetOnlyAsStated := by
  intro s t h
  obtain ⟨x, -, rfl⟩ | ⟨x, hx, rfl⟩ | ⟨-, -, rfl⟩ | ⟨i, pt, -, -, -, -, -, rfl⟩ | ⟨d, r, -, hb, rfl⟩ :=
    step_outcomes h
  · simp
  · cases x with
    | read idx => simp +contextual [hostTurn]
    | write idx v =>
      refine ⟨fun ht hs => ?_, fun ht hs => ⟨idx, v, hx, hostWrite_ovr (s := takeTurn s) ht hs⟩⟩
      cases hs.symm.trans (hostWrite_done (s := takeTurn s) ht)
  · simp +contextual
  · simp +contextual
  · simp +contextual [hb, complete_ends, complete_keeps]

/-! ## `STATUS` and reset -/

/-- Settles O11: a write to `STATUS` is `acknowledge`. -/
theorem statusWriteAcknowledges : Obligations.StatusWriteAcknowledges := by
  intro s v
  refine ⟨?_, ?_, rfl, rfl, rfl, rfl⟩
  · show (s.status.done && !v.getLsbD 1) = _
    cases v.getLsbD 1 <;> simp
  · show (s.status.ovr && !v.getLsbD 3) = _
    cases v.getLsbD 3 <;> simp

/-- Settles O14, by taking the four flags off the end of the word. -/
theorem statusWordLayout : Obligations.StatusWordLayout := by
  intro s
  show s.status.toWord.getLsbD 0 = _ ∧ s.status.toWord.getLsbD 1 = _ ∧ s.status.toWord.getLsbD 2 = _ ∧
    s.status.toWord.getLsbD 3 = _ ∧ s.status.toWord.toNat / 16 = _
  rw [toWord_eq_concat]
  refine ⟨by simp, by simp, by simp, by simp, ?_⟩
  have hbusy := Bool.toNat_lt s.status.busy
  have hdone := Bool.toNat_lt s.status.done
  have hfatal := Bool.toNat_lt s.status.fatal
  have hovr := Bool.toNat_lt s.status.ovr
  have hcode : (0#24 ++ errCode s.status.err).toNat = (errCode s.status.err).toNat :=
    (BitVec.toNat_append _ _).trans (by simp)
  simp only [BitVec.toNat_concat, hcode]
  trans (errCode s.status.err).toNat
  · omega
  · rcases s.status.err with _ | e
    · rfl
    · cases e <;> rfl

/-- Settles O15, over the sixteen indices. -/
theorem resetStateReadsZero : Obligations.ResetStateReadsZero :=
  ⟨by decide, rfl, rfl, rfl, rfl⟩

/-- Settles O56: no command is in flight, and the Keypair registers are 0. -/
theorem resetMeetsInvariant : Obligations.ResetMeetsInvariant :=
  { idle_empty := fun _ => rfl
    busy_status := by simp [State.reset]
    fatal_err := by simp [State.reset]
    work_fits := fun _ _ => trivial
    illegal_empty := fun _ _ => rfl
    keypair := .inl rfl }

end Sys2Proof.Machine

/-! PROOFS. The statements of 20_memory.md. -/
namespace Sys2Proof.Machine

/-! ## The register window -/

section
variable {idx : RegIdx} {v : Word} {s : State}

/-- A host write to a read-only register or a reserved index is ignored (20_memory.md R65). -/
theorem hostWrite_of_seven_le (h : 7 ≤ idx.toNat) : hostWrite idx v s = s := by
  unfold hostWrite
  split
  case h_8 => rfl
  all_goals omega

/-- A reserved index reads 0 (R65). -/
theorem hostRead_of_thirteen_le (h : 13 ≤ idx.toNat) : hostRead idx s = 0#32 := by
  unfold hostRead
  split
  case h_14 => rfl
  all_goals omega

/-- A core that is not busy takes an operand write (R62). -/
theorem writeOperand_of_not_busy (written : State) (hb : s.status.busy = false) :
    writeOperand written s = written := by
  simp [writeOperand, hb]

/-- All that a host write can change on a busy core: `STATUS`, with `BUSY` left 1, and `IE` (60_exceptions.md R201). -/
theorem hostWrite_of_busy (hb : s.status.busy = true) :
    ∃ st ie, st.busy = true ∧ hostWrite idx v s = { s with status := st, ie := ie } := by
  obtain ⟨-, hidle, -⟩ | ⟨hw, -⟩ | ⟨hw, -⟩ | ⟨hw, -⟩ | ⟨hidle, -⟩ | hw := hostWrite_cases idx v s
  · simp [hb] at hidle
  · exact ⟨(dropWrite s).status, _, hb, hw⟩
  · exact ⟨(acknowledge v s).status, _, hb, hw⟩
  · exact ⟨_, _, hb, hw⟩
  · simp [hb] at hidle
  · exact ⟨_, _, hb, hw⟩

/-- All that a host transaction can change on a busy core: what a write can, and the port `h_rdata`. -/
theorem hostTurn_of_busy (x : HostTxn) (hb : s.status.busy = true) :
    ∃ st ie rd, st.busy = true ∧ hostTurn x s = { s with status := st, ie := ie, hRdata := rd } := by
  cases x with
  | read idx => exact ⟨_, _, _, hb, rfl⟩
  | write idx v =>
    obtain ⟨st, ie, hst, hw⟩ := hostWrite_of_busy (idx := idx) (v := v) hb
    exact ⟨st, ie, none, hst, by rw [hostTurn, hw]⟩

end

/-! ## Turns -/

/-- The entry listed first is the one whose turn it is, and it is the one used. -/
theorem Feed.head_after_of_ahead {α : Type} {x : α} {xs : List α} {f : Feed α} (idle : α) (source : Nat → α)
    (h : f.ahead = x :: xs) : f.head idle source = x ∧ f.after = ⟨xs, f.rest⟩ := by
  obtain ⟨ahead, rest⟩ := f
  obtain rfl : ahead = x :: xs := h
  exact ⟨rfl, rfl⟩

section
variable {s : State}

/-- A host turn is one transaction (R70). -/
theorem step_of_host {x : HostTxn} (h : nextTurn s = .host x) : step s = .next (hostTurn x (takeTurn s)) := by
  simp only [step, h]

/-- An edge with `rst = 1` resets (70_reset_and_hazards.md R230). -/
theorem step_of_reset {x : Option HostTxn} (h : nextTurn s = .reset x) :
    step s = .next (applyReset (takeTurn s)) := by
  simp only [step, h]

/-- The turn of an idle core does nothing (R70). -/
theorem step_of_idle_core (h : nextTurn s = .core) (hb : s.status.busy = false) :
    step s = .next (takeTurn s) := by
  simp [step, h, coreStep, hb]

end

/-! ## The statements -/

/-- Settles O52: what a host transaction changes on a busy core is no part of the command in flight. -/
theorem hostCannotDisturbCommand : Obligations.HostCannotDisturbCommand := by
  intro s t x hb hn h
  obtain rfl : hostTurn x (takeTurn s) = t := Host.Outcome.next.inj ((step_of_host hn).symm.trans h)
  obtain ⟨st, ie, rd, hst, hturn⟩ := hostTurn_of_busy x (s := takeTurn s) hb
  rw [hturn]
  exact ⟨hst, rfl, rfl, rfl, rfl, rfl, rfl, rfl, rfl, rfl⟩

/-- Settles O5: one rule an agent, and the two ways in which a turn is scheduled. -/
theorem turnsOfTheOtherAgents : Obligations.TurnsOfTheOtherAgents := by
  intro s
  refine ⟨fun _ _ => step_of_host, fun _ => step_of_host, fun _ => step_of_reset, step_of_idle_core,
    fun _ _ => Feed.head_after_of_ahead _ _, ?again, ?nothing⟩
  case again =>
    intro x ts h
    simp [nextTurn, h]
  case nothing =>
    intro h hb
    rw [step_of_idle_core (nextTurn_nothing s h) hb, takeTurn, h, Feed.after_nothing, ← h]

/-- Settles O10: each of the four is a `writeOperand`. -/
theorem operandWriteStores : Obligations.OperandWriteStores := by
  intro s v hb
  exact ⟨writeOperand_of_not_busy _ hb, writeOperand_of_not_busy _ hb, writeOperand_of_not_busy _ hb,
    writeOperand_of_not_busy _ hb⟩

/-- Settles O12, by the rule of the ignored writes and that of the reserved reads. -/
theorem reservedAndReadOnlyIndices : Obligations.ReservedAndReadOnlyIndices :=
  fun _ _ _ => ⟨hostWrite_of_seven_le, hostRead_of_thirteen_le⟩

/-- Settles O13, index by index: each is one case of `hostRead`. -/
theorem hostReadReturnsRegister : Obligations.HostReadReturnsRegister := by
  intro s
  exact ⟨rfl, rfl, rfl, rfl, rfl, rfl, rfl, rfl, rfl, rfl, rfl, rfl, rfl, rfl, rfl, rfl, fun _ => rfl⟩

end Sys2Proof.Machine

/-! PROOFS. Facts about Modular Arithmetic and the Primality Engine that the machine's invariant rests on: what the
two Euclidean loops compute (42_modarith.md R152, R154) and what the sieve's verdicts say (41_primality.md R122). -/
namespace Sys2Proof.Machine

/-! ## The Euclidean loops -/

theorem gcdLoop_eq {k a b : Nat} (h : b < k) : gcdLoop k a b = Nat.gcd a b := by
  induction k generalizing a b with
  | zero => omega
  | succ k ih =>
    by_cases hb : b = 0
    · simp [hb]
    · have := Nat.mod_lt a (Nat.pos_of_ne_zero hb)
      rw [gcdLoop_step k a b hb, ih (by omega), Nat.gcd_comm b, ← Nat.gcd_rec, Nat.gcd_comm]

theorem gcd_toNat (a b : Word) : (gcd a b).toNat = Nat.gcd a.toNat b.toNat := by
  have hlt : Nat.gcd a.toNat b.toNat < 2 ^ 32 := by
    rcases Nat.eq_zero_or_pos a.toNat with h | h
    · simpa [h] using b.isLt
    · exact (Nat.gcd_le_left _ h).trans_lt a.isLt
  rw [gcd, gcdLoop_eq (Nat.lt_succ_self _), BitVec.toNat_ofNat, Nat.mod_eq_of_lt hlt]

theorem gcd_eq_one_iff (a b : Word) : gcd a b = 1#32 ↔ Nat.gcd a.toNat b.toNat = 1 := by
  rw [← BitVec.toNat_inj, gcd_toNat]
  rfl

/-- One turn of the extended Euclidean loop. -/
theorem inverseLoop_step (k oldR r : Nat) (oldS s : Int) (hr : r ≠ 0) :
    inverseLoop (k + 1) oldR r oldS s =
      inverseLoop k r (oldR % r) s (oldS - ((oldR / r : Nat) : Int) * s) := by
  rw [inverseLoop, if_neg hr, ← Nat.mod_eq_sub_div_mul]

@[simp] theorem inverseLoop_zero (k oldR : Nat) (oldS s : Int) : inverseLoop k oldR 0 oldS s = (oldR, oldS) := by
  cases k <;> simp [inverseLoop]

/-- The remainders of the extended loop are those of the Euclidean one. -/
theorem inverseLoop_fst {k oldR r : Nat} {oldS s : Int} (h : r < k) :
    (inverseLoop k oldR r oldS s).1 = Nat.gcd oldR r := by
  induction k generalizing oldR r oldS s with
  | zero => omega
  | succ k ih =>
    by_cases hr : r = 0
    · simp [hr]
    · have := Nat.mod_lt oldR (Nat.pos_of_ne_zero hr)
      rw [inverseLoop_step k _ _ _ _ hr, ih (by omega), Nat.gcd_comm r, ← Nat.gcd_rec, Nat.gcd_comm]

/-- Each coefficient times `a` stays its remainder modulo `b`. -/
theorem inverseLoop_modEq {a b : Int} {k oldR r : Nat} {oldS s : Int} (h1 : a * oldS ≡ oldR [ZMOD b])
    (h2 : a * s ≡ r [ZMOD b]) :
    a * (inverseLoop k oldR r oldS s).2 ≡ (inverseLoop k oldR r oldS s).1 [ZMOD b] := by
  induction k generalizing oldR r oldS s with
  | zero => exact h1
  | succ k ih =>
    by_cases hr : r = 0
    · simpa [hr] using h1
    · rw [inverseLoop_step k _ _ _ _ hr]
      refine ih h2 ?_
      have hmod : ((oldR % r : Nat) : Int) = oldR - ((oldR / r : Nat) : Int) * r := by
        have := Nat.div_add_mod' oldR r
        rw [eq_sub_iff_add_eq, add_comm]
        exact_mod_cast this
      rw [hmod, mul_sub, mul_left_comm]
      exact h1.sub (h2.mul_left _)

/-- The two coefficients alternate in sign, `x * r + y * oldR` stays `b`, and so the last coefficient is below `b`. -/
theorem inverseLoop_abs_lt {b k oldR r x y : Nat} {σ : Int} (hpos : 0 < b) (hσ : |σ| = 1) (hk : r < k)
    (hb : x * r + y * oldR = b) (hend : r = 0 → x < b) (hnext : y = 0 ∨ r < oldR) :
    |(inverseLoop k oldR r (σ * x) (-σ * y)).2| < b := by
  induction k generalizing oldR r x y σ with
  | zero => omega
  | succ k ih =>
    by_cases hr : r = 0
    · subst hr
      simpa [abs_mul, hσ] using hend rfl
    · have hlt := Nat.mod_lt oldR (Nat.pos_of_ne_zero hr)
      have hdiv := Nat.div_add_mod' oldR r
      have hcoeff : σ * x - ((oldR / r : Nat) : Int) * (-σ * y) = - -σ * ((x + oldR / r * y : Nat) : Int) := by
        push_cast
        ring
      rw [inverseLoop_step k _ _ _ _ hr, hcoeff]
      refine ih (by rwa [abs_neg]) (by omega) ?_ (fun _ => ?_) (.inr hlt)
      · rw [← hb]
        nth_rw 3 [← hdiv]
        ring
      · obtain rfl | hlt' := hnext
        · exact hpos
        · have : y * 2 ≤ y * oldR := Nat.mul_le_mul_left y (by omega)
          omega

/-- Adding `b` to a negative coefficient brings it into [0, b) and keeps its residue (R154). -/
theorem normalise_spec {i : Int} {b : Word} (h : |i| < b.toNat) :
    (normalise i b).toNat < b.toNat ∧ ((normalise i b).toNat : Int) ≡ i [ZMOD b.toNat] := by
  obtain ⟨hlow, hhigh⟩ := abs_lt.mp h
  have hb := b.isLt
  unfold normalise
  rw [BitVec.toNat_ofInt]
  split
  · rw [Int.emod_eq_of_lt (by omega) (by omega)]
    exact ⟨by omega, by simp [Int.toNat_of_nonneg (show 0 ≤ i + b.toNat by omega), Int.ModEq]⟩
  · rw [Int.emod_eq_of_lt (by omega) (by omega)]
    exact ⟨by omega, by rw [Int.toNat_of_nonneg (by omega)]⟩

/-- `modular_inverse` on its precondition (R154, R157): the inverse modulo `b`, in [0, b). -/
theorem modularInverse_spec {a b : Word} (hb : b ≠ 0#32) (hg : Nat.gcd a.toNat b.toNat = 1) :
    ∃ x, modularInverse a b = some x ∧ x.toNat < b.toNat ∧ a.toNat * x.toNat % b.toNat = 1 % b.toNat := by
  have hpos : 0 < b.toNat := Nat.pos_of_ne_zero fun h => hb (BitVec.eq_of_toNat_eq h)
  have hfst := (inverseLoop_fst (oldS := 1) (s := 0) (Nat.lt_succ_self b.toNat)).trans hg
  have habs := inverseLoop_abs_lt (oldR := a.toNat) (x := 1) (y := 0) hpos abs_one (Nat.lt_succ_self b.toNat)
    (by simp) (fun h => absurd h hpos.ne') (.inl rfl)
  have hmod := inverseLoop_modEq (k := b.toNat + 1) (a := a.toNat) (b := b.toNat) (oldR := a.toNat) (r := b.toNat)
    (oldS := 1) (s := 0) (by simp) (by simp [Int.ModEq])
  rw [hfst] at hmod
  obtain ⟨hlt, hx⟩ := normalise_spec (by simpa using habs)
  refine ⟨_, if_neg (by simp [hb, hfst]), hlt, ?_⟩
  exact_mod_cast (hx.mul_left _).trans hmod

/-! ## The sieve -/

theorem prime_of_mem_primeTable : ∀ p ∈ primeTable, Nat.Prime p := by
  simp only [primeTable, List.forall_mem_append, List.forall_mem_cons, List.not_mem_nil]
  norm_num

theorem mem_of_sieveTable_prime {n : Nat} {ts : List Nat} (h : sieveTable n ts = .prime) : n ∈ ts := by
  induction ts with
  | nil => cases h
  | cons t ts ih =>
    unfold sieveTable at h
    split at h
    · next hn => exact List.mem_cons.mpr (.inl hn)
    · split at h
      · cases h
      · exact List.mem_cons_of_mem t (ih h)

/-- A number the sieve accepts is a prime (41_primality.md R122). -/
theorem prime_of_sieve {n : Word} (h : sieve n = .prime) : Nat.Prime n.toNat := by
  unfold sieve at h
  split at h
  · cases h
  · exact prime_of_mem_primeTable _ (mem_of_sieveTable_prime h)

/-- Trial division by the table decides every odd number below 1009, the first prime after the table. -/
theorem sieveTable_decides_below_1009 :
    ∀ n < 1009, sieveTable n primeTable = .undecided → n < 3 ∨ n % 2 = 0 := by
  decide +kernel

/-- A number the sieve leaves undecided is odd and at least 1009 (R122). -/
theorem sieve_undecided {n : Word} (h : sieve n = .undecided) : n.toNat % 2 = 1 ∧ 1009 ≤ n.toNat := by
  unfold sieve at h
  split at h
  · cases h
  · next hn =>
    refine ⟨by omega, ?_⟩
    by_contra hlt
    exact hn (sieveTable_decides_below_1009 _ (by omega) h)

end Sys2Proof.Machine

/-! PROOFS. What the working state of a command can be, that every draw keeps it so, and with it the machine's
invariant under each operation: one lemma an operation. -/
namespace Sys2Proof.Machine

/-! ## Generated primes -/

theorem genPrime_of_candidatePasses {v : Word} (h : candidatePasses (candidate (uniformValue 128#32 v)) = true) :
    GenPrime (candidate (uniformValue 128#32 v)) :=
  ⟨prime_of_sieve (by simpa [candidatePasses] using h), candidate_range v⟩

/-- The only prime from 128 to 136 is 131. -/
theorem GenPrime.eq_131_or_ge_137 {p : Word} (hp : GenPrime p) : p.toNat = 131 ∨ 137 ≤ p.toNat := by
  obtain ⟨hprime, hlow, -⟩ := hp
  generalize p.toNat = n at hprime hlow
  by_contra! h
  obtain ⟨hne, hlt⟩ := h
  interval_cases n <;> revert hprime hne <;> norm_num

section
variable {p q : Word} (hp : GenPrime p) (hq : GenPrime q)
include hp hq

theorem GenPrime.keyTotient_toNat : (keyTotient p q).toNat = (p.toNat - 1) * (q.toNat - 1) :=
  Machine.keyTotient_toNat p q hp.1.one_le hp.2.2 hq.1.one_le hq.2.2

/-- The smallest totient of two distinct generated primes is that of 131 and 137 (40_random.md R105). -/
theorem GenPrime.totient_ge (hne : p ≠ q) : 17680 ≤ (p.toNat - 1) * (q.toNat - 1) := by
  have hne' : p.toNat ≠ q.toNat := fun h => hne (BitVec.eq_of_toNat_eq h)
  obtain hp' | hp' := hp.eq_131_or_ge_137 <;> obtain hq' | hq' := hq.eq_131_or_ge_137
  · omega
  · exact Nat.mul_le_mul (by omega : 130 ≤ _) (by omega : 136 ≤ _)
  · exact Nat.mul_le_mul (by omega : 136 ≤ _) (by omega : 130 ≤ _)
  · exact Nat.mul_le_mul (by omega : 130 ≤ _) (by omega : 136 ≤ _)

/-- An exponent coprime to the totient completes the Keypair (43_keygen.md R171, R173). -/
theorem tryExponent_coprime (hne : p ≠ q) {e : Word} (hlow : 1 ≤ e.toNat)
    (hhigh : e.toNat < (p.toNat - 1) * (q.toNat - 1)) (hg : gcd e (keyTotient p q) = 1#32) :
    ∃ k, KeypairOk k ∧ tryExponent p q e = .finished (.keypair k) := by
  have htot := hp.keyTotient_toNat hq
  have hge := hp.totient_ge hq hne
  have hcop := (gcd_eq_one_iff _ _).mp hg
  obtain ⟨d, hd, hdlt, hinv⟩ := modularInverse_spec (fun h0 => by rw [h0, BitVec.toNat_zero] at htot; omega) hcop
  rw [htot] at hcop hdlt hinv
  rw [Nat.mod_eq_of_lt (by omega : 1 < (p.toNat - 1) * (q.toNat - 1))] at hinv
  refine ⟨⟨e, d, keyModulus p q, p, q⟩, ?_, by simp [tryExponent, hg, hd]⟩
  exact { p_prime := hp, q_prime := hq, distinct := hne, modulus := keyModulus_toNat p q hp.2.2 hq.2.2
          coprime := hcop, inverse := hinv, e_low := hlow, e_high := hhigh
          d_low := Nat.pos_of_ne_zero fun h0 => by simp [h0] at hinv
          d_high := hdlt }

end

/-! ## Points -/

section
variable {i : Instr} {s : State}

@[simp] theorem pointOk_uniform (max : Word) :
    PointOk i s (.uniform max) ↔ i = .uniform ∧ max = s.opaLo ∧ max ≠ 0#32 := by
  cases i <;> simp [PointOk]

@[simp] theorem pointOk_range (a b : Word) :
    PointOk i s (.range a b) ↔ i = .range ∧ a = s.opaLo ∧ b = s.opb ∧ a < b := by
  cases i <;> simp [PointOk]

@[simp] theorem pointOk_millerRabin (n : Word) (sh : Nat) (d : Word) (round : Nat) :
    PointOk i s (.millerRabin n sh d round) ↔
      (i = .mrtest ∧ 5 ≤ n.toNat ∧ n.toNat % 2 = 1 ∨ i = .isprime ∧ sieve n = .undecided) ∧
        n = s.opaLo ∧ RoundOk n sh d round := by
  cases i <;> simp [PointOk] <;> tauto

@[simp] theorem pointOk_getPrime (attempt : Nat) :
    PointOk i s (.getPrime attempt) ↔ i = .getprime ∧ AttemptOk attempt := by
  cases i <;> simp [PointOk]

@[simp] theorem pointOk_keygenP (attempt : Nat) :
    PointOk i s (.keygenP attempt) ↔ i = .keygen ∧ AttemptOk attempt := by
  cases i <;> simp [PointOk]

@[simp] theorem pointOk_keygenQ (p : Word) (attempt : Nat) :
    PointOk i s (.keygenQ p attempt) ↔ i = .keygen ∧ GenPrime p ∧ AttemptOk attempt := by
  cases i <;> simp [PointOk]

@[simp] theorem pointOk_keygenE (p q : Word) :
    PointOk i s (.keygenE p q) ↔ i = .keygen ∧ GenPrime p ∧ GenPrime q ∧ p ≠ q := by
  cases i <;> simp [PointOk]

end

/-! ## What `uniform` is asked for -/

theorem range_max_toNat {a b : Word} (h : a.toNat ≤ b.toNat) :
    (Point.range a b).max.toNat = b.toNat - a.toNat :=
  word_sub_toNat a b h

theorem millerRabin_max_toNat {n : Word} (h : 3 ≤ n.toNat) (sh : Nat) (d : Word) (round : Nat) :
    (Point.millerRabin n sh d round).max.toNat = n.toNat - 3 := by
  have h1 : (n - 1#32).toNat = n.toNat - 1 := word_sub_toNat 1#32 n (show 1 ≤ n.toNat by omega)
  have h2 : (n - 1#32 - 2#32).toNat = (n - 1#32).toNat - 2 :=
    word_sub_toNat 2#32 (n - 1#32) (show 2 ≤ (n - 1#32).toNat by omega)
  show (n - 1#32 - 2#32).toNat = _
  omega

theorem keygenE_max_toNat {p q : Word} (hp : GenPrime p) (hq : GenPrime q) (hne : p ≠ q) :
    (Point.keygenE p q).max.toNat = (p.toNat - 1) * (q.toNat - 1) - 1 := by
  have htot := hp.keyTotient_toNat hq
  have hge := hp.totient_ge hq hne
  rw [← htot]
  exact word_sub_toNat 1#32 (keyTotient p q) (show 1 ≤ _ by omega)

section
variable {i : Instr} {s : State} {pt : Point}

/-- Miller-Rabin runs on an odd `n` from 5 up, and in ISPRIME on one from 1009 up (40_random.md R105). -/
theorem PointOk.millerRabin_ge {n d : Word} {sh round : Nat} (h : PointOk i s (.millerRabin n sh d round)) :
    5 ≤ n.toNat ∧ (i = .isprime → 1009 ≤ n.toNat) := by
  obtain ⟨⟨rfl, hge, -⟩ | ⟨-, hsieve⟩, -⟩ := (pointOk_millerRabin n sh d round).mp h
  · exact ⟨hge, by simp⟩
  · have := (sieve_undecided hsieve).2
    exact ⟨by omega, fun _ => this⟩

/-- The precondition of `uniform` (R105). -/
theorem PointOk.max_pos (h : PointOk i s pt) : 1 ≤ pt.max.toNat := by
  cases pt with
  | uniform max =>
    obtain ⟨-, -, hne⟩ := (pointOk_uniform max).mp h
    exact Nat.pos_of_ne_zero fun h0 => hne (BitVec.eq_of_toNat_eq h0)
  | range a b =>
    obtain ⟨-, -, -, hlt⟩ := (pointOk_range a b).mp h
    rw [BitVec.lt_def] at hlt
    rw [range_max_toNat hlt.le]
    omega
  | millerRabin n sh d round =>
    have := h.millerRabin_ge.1
    rw [millerRabin_max_toNat (by omega)]
    omega
  | getPrime | keygenP | keygenQ => exact (by decide : 1 ≤ (128#32 : Word).toNat)
  | keygenE p q =>
    obtain ⟨-, hp, hq, hne⟩ := (pointOk_keygenE p q).mp h
    have := hp.totient_ge hq hne
    rw [keygenE_max_toNat hp hq hne]
    omega

theorem PointOk.uniformValue_lt (h : PointOk i s pt) (v : Word) :
    (uniformValue pt.max v).toNat < pt.max.toNat :=
  Machine.uniformValue_lt _ _ fun h0 => by simpa [h0] using h.max_pos

end

/-- The sum of `range` does not wrap when it fits a word. -/
theorem rangeValue_toNat {a u : Word} (h : a.toNat + u.toNat < 2 ^ 32) :
    (rangeValue a u).toNat = a.toNat + u.toNat := by
  rw [rangeValue, BitVec.toNat_add, Nat.add_comm, Nat.mod_eq_of_lt h]

/-! ## Progress -/

/-- How far a command has come fits the command: `WorkOk` of a working state that is not empty. -/
def ProgressOk (i : Instr) (s : State) : Progress → Prop
  | .draw pt => PointOk i s pt
  | .finished r => OutcomeOk i s r

section
variable {i : Instr} {s : State} {pt : Point}

theorem workOk_of_some {p : Progress} (h : s.work = some p) : WorkOk i s ↔ ProgressOk i s p := by
  unfold WorkOk
  rw [h]
  cases p <;> rfl

theorem workOk_handshake : WorkOk i (handshake pt s) ↔ ProgressOk i s (drawOutcome pt s.entropy.now) := by
  rw [workOk_of_some (handshake_work pt s)]
  cases drawOutcome pt s.entropy.now <;> exact Iff.rfl

theorem attemptOk_one : AttemptOk 1 := ⟨le_rfl, by decide⟩

theorem roundOk_one (n : Word) : RoundOk n (decompose n).1 (decompose n).2 1 := ⟨rfl, le_rfl, by decide⟩

/-- A command comes to its first draw only with operands that meet the draw's precondition. -/
theorem firstProgress_draw (h : firstProgress i s = .draw pt) : PointOk i s pt := by
  cases i with
  | encrypt | decrypt | modpow | gcd | modinv | sieve => cases h
  | keygen | getprime =>
    cases h
    exact attemptOk_one
  | isprime =>
    simp only [firstProgress, startIsprime] at h
    split at h
    case h_3 hs =>
      cases h
      exact ⟨rfl, hs, roundOk_one _⟩
    all_goals cases h
  | mrtest =>
    simp only [firstProgress, startMrtest] at h
    split at h
    · cases h
    · next hn =>
      cases h
      exact ⟨rfl, by omega, by omega, roundOk_one _⟩
  | uniform =>
    simp only [firstProgress, startUniform] at h
    split at h
    · cases h
    · next h0 =>
      cases h
      exact ⟨rfl, h0⟩
  | range =>
    simp only [firstProgress, startRange] at h
    split at h
    · cases h
    · next hle =>
      cases h
      exact ⟨rfl, rfl, BitVec.not_le.mp hle⟩

/-- Where a command with a fitting working state draws, the draw belongs to it. -/
theorem pointOk_of_draw (hw : WorkOk i s) (h : s.work.getD (firstProgress i s) = .draw pt) : PointOk i s pt := by
  cases hwork : s.work with
  | none => exact firstProgress_draw (by simpa [hwork] using h)
  | some p =>
    obtain rfl : p = .draw pt := by simpa [hwork] using h
    exact (workOk_of_some hwork).mp hw

/-- `range(a, b)` gives a value in [a, b) (40_random.md R102). -/
theorem progressOk_rangeValue {u : Word} (hu : u.toNat < s.opb.toNat - s.opaLo.toNat) :
    ProgressOk .range s (.finished (.res (rangeValue s.opaLo u))) := by
  have hopb := s.opb.isLt
  have hv := rangeValue_toNat (a := s.opaLo) (u := u) (by omega)
  exact .inr (.inl ⟨rfl, BitVec.le_def.mpr (by omega), BitVec.lt_def.mpr (by omega)⟩)

/-- A candidate of `get_prime` leads on to a generated prime, to the next attempt or to exhaustion
(41_primality.md R126). -/
theorem progressOk_getPrimeCall {pt : Nat → Point} {found : Word → Progress} {attempt : Nat}
    (hc : GetPrimeCall pt found) (hfound : ∀ c, GenPrime c → ProgressOk i s (found c))
    (hpt : ∀ k, AttemptOk k → PointOk i s (pt k)) (hi : mayRaise i .primeExhausted = true) (v : Word) :
    ProgressOk i s (resume (pt attempt) (uniformValue (pt attempt).max v)) := by
  have hmax : (pt attempt).max = 128#32 := hc.max_eq attempt
  rw [hc.resume_eq, hmax]
  split
  · next hpass => exact hfound _ (genPrime_of_candidatePasses hpass)
  · unfold nextAttempt
    split
    · exact hpt _ ⟨by omega, by omega⟩
    · exact ⟨.inl rfl, hi⟩

/-- An exponent candidate leads on to the Keypair or to the next draw (43_keygen.md R171). -/
theorem progressOk_tryExponent {p q u : Word} (hp : GenPrime p) (hq : GenPrime q) (hne : p ≠ q)
    (hu : u.toNat < (p.toNat - 1) * (q.toNat - 1) - 1) :
    ProgressOk .keygen s (tryExponent p q (rangeValue 1#32 u)) := by
  by_cases hg : gcd (rangeValue 1#32 u) (keyTotient p q) = 1#32
  · have htot := (keyTotient p q).isLt
    rw [hp.keyTotient_toNat hq] at htot
    have he : (rangeValue 1#32 u).toNat = 1 + u.toNat :=
      rangeValue_toNat (show 1 + u.toNat < 2 ^ 32 by omega)
    obtain ⟨k, hk, h⟩ := tryExponent_coprime hp hq hne (by omega) (by omega) hg
    rw [h]
    exact ⟨rfl, hk⟩
  · rw [tryExponent, if_neg hg]
    exact ⟨hp, hq, hne⟩

/-- A round of Miller-Rabin leads on to the next round or to a verdict (41_primality.md R124). -/
theorem progressOk_mrNext {n d : Word} {sh round : Nat} (h : PointOk i s (.millerRabin n sh d round))
    (base : Word) : ProgressOk i s (mrNext n sh d round base) := by
  obtain ⟨hn, rfl, hdec, hlow, hhigh⟩ := (pointOk_millerRabin n sh d round).mp h
  have hverdict (b : Bool) : ProgressOk i s (.finished (.res (boolWord b))) :=
    .inr (.inr (.inl ⟨hn.imp And.left And.left, by cases b <;> simp [boolWord]⟩))
  unfold mrNext
  split
  · split
    · exact (pointOk_millerRabin _ _ _ _).mpr ⟨hn, rfl, hdec, by omega, by omega⟩
    · exact hverdict true
  · exact hverdict false

/-- A word that `uniform` takes leads a command on to where its rule allows. -/
theorem progressOk_resume (h : PointOk i s pt) (v : Word) :
    ProgressOk i s (resume pt (uniformValue pt.max v)) := by
  have hlt := h.uniformValue_lt v
  cases pt with
  | uniform max =>
    obtain ⟨rfl, rfl, -⟩ := (pointOk_uniform max).mp h
    exact .inl ⟨rfl, hlt⟩
  | range a b =>
    obtain ⟨rfl, rfl, rfl, hab⟩ := (pointOk_range a b).mp h
    exact progressOk_rangeValue (by rwa [← range_max_toNat (BitVec.le_of_lt hab)])
  | millerRabin n sh d round => exact progressOk_mrNext h _
  | getPrime attempt =>
    obtain ⟨rfl, -⟩ := (pointOk_getPrime attempt).mp h
    exact progressOk_getPrimeCall getPrimeCall_getPrime (fun c hc => .inr (.inr (.inr ⟨rfl, hc⟩)))
      (fun k hk => hk) rfl v
  | keygenP attempt =>
    obtain ⟨rfl, -⟩ := (pointOk_keygenP attempt).mp h
    exact progressOk_getPrimeCall (i := .keygen) getPrimeCall_keygenP (fun p hp => ⟨hp, attemptOk_one⟩)
      (fun k hk => hk) rfl v
  | keygenQ p attempt =>
    obtain ⟨rfl, hp, -⟩ := (pointOk_keygenQ p attempt).mp h
    refine progressOk_getPrimeCall (i := .keygen) (getPrimeCall_keygenQ p) (fun q hq => ?_)
      (fun k hk => ⟨hp, hk⟩) rfl v
    split
    · next hne => exact ⟨hp, hq, hne.symm⟩
    · exact ⟨hp, attemptOk_one⟩
  | keygenE p q =>
    obtain ⟨rfl, hp, hq, hne⟩ := (pointOk_keygenE p q).mp h
    exact progressOk_tryExponent hp hq hne (by rwa [← keygenE_max_toNat hp hq hne])

/-- One handshake leads a command on to where its rule allows (20_memory.md R68). -/
theorem progressOk_drawOutcome (h : PointOk i s pt) (hd : draws i = true) (pins : EntPins) :
    ProgressOk i s (drawOutcome pt pins) := by
  obtain ⟨-, ho⟩ | ⟨-, -, -, ho⟩ | ⟨-, -, ho⟩ := drawOutcome_cases pt pins <;> rw [ho]
  · exact ⟨.inr rfl, hd⟩
  · exact progressOk_resume h pins.data
  · exact h

end

/-! ## The machine's invariant -/

section
variable {s t : State}

/-- With an empty working state the invariant is a matter of `STATUS` and the Keypair registers. -/
theorem machineInv_of_work_empty (hwork : s.work = none)
    (hbusy : s.status.busy = true → s.status.done = false ∧ s.status.err = none)
    (hfatal : s.status.fatal = true ↔ s.status.err = some .entropyUnavailable)
    (hkp : s.kp = .zero ∨ KeypairOk s.kp) : MachineInv s where
  idle_empty _ := hwork
  busy_status := hbusy
  fatal_err := hfatal
  work_fits i _ := by simp [WorkOk, hwork]
  illegal_empty _ _ := hwork
  keypair := hkp

/-- The invariant does not speak of `OVR`, `IE`, `h_rdata` and the turns, and `DONE` may be cleared. -/
theorem MachineInv.of_status (h : MachineInv s) {st : Status} (hb : st.busy = s.status.busy)
    (hd : st.done = true → s.status.done = true) (hf : st.fatal = s.status.fatal) (he : st.err = s.status.err)
    (ie : Bool) (rd : Option Word) (turns : Schedule) :
    MachineInv { s with status := st, ie := ie, hRdata := rd, turns := turns } where
  idle_empty hidle := h.idle_empty (hb ▸ hidle)
  busy_status hbusy := by
    obtain ⟨hdone, herr⟩ := h.busy_status (hb ▸ hbusy)
    exact ⟨by simpa [hdone] using hd, he.trans herr⟩
  fatal_err := by
    show st.fatal = true ↔ st.err = _
    rw [hf, he]
    exact h.fatal_err
  work_fits := h.work_fits
  illegal_empty := h.illegal_empty
  keypair := h.keypair

theorem MachineInv.takeTurn (h : MachineInv s) : MachineInv (takeTurn s) :=
  h.of_status rfl id rfl rfl s.ie none s.turns.after

theorem MachineInv.setHRdata (h : MachineInv s) (rd : Option Word) : MachineInv { s with hRdata := rd } :=
  h.of_status rfl id rfl rfl s.ie rd s.turns

/-- A command in flight is not in the fatal state. -/
theorem MachineInv.fatal_of_busy (h : MachineInv s) (hb : s.status.busy = true) : s.status.fatal = false := by
  obtain ⟨-, herr⟩ := h.busy_status hb
  simpa [herr] using h.fatal_err

/-- The completion of a command in flight keeps the invariant when a Keypair it writes is a generated one. -/
theorem MachineInv.complete (h : MachineInv s) (hb : s.status.busy = true) (d : Dest) {r : Result}
    (hr : ∀ k, r = .keypair k → KeypairOk k) : MachineInv (complete d r s) := by
  have hf := h.fatal_of_busy hb
  obtain ⟨hbusy, -, hwork⟩ := complete_ends d r s
  refine machineInv_of_work_empty hwork (by simp [hbusy]) ?_ ?_
  · cases r with
    | res | keypair => simp [Machine.complete, hf]
    | raise e => cases d <;> simp [Machine.complete, raiseError, zeroDest, hf]
  · cases r with
    | res v => exact h.keypair
    | keypair k => exact .inr (hr k rfl)
    | raise e =>
      cases d with
      | keypair => exact .inl rfl
      | res | nothing => exact h.keypair

/-- A handshake of the command in flight keeps the invariant. -/
theorem MachineInv.handshake (h : MachineInv s) {i : Instr} {pt : Point} (hb : s.status.busy = true)
    (hi : current s = .ok i) (hd : draws i = true) (hp : s.work.getD (firstProgress i s) = .draw pt) :
    MachineInv (handshake pt s) where
  idle_empty hidle := by simp [hb] at hidle
  busy_status := h.busy_status
  fatal_err := h.fatal_err
  work_fits j hj := by
    obtain rfl : i = j := Except.ok.inj (hi.symm.trans hj)
    exact workOk_handshake.mpr (progressOk_drawOutcome (pointOk_of_draw (h.work_fits i hi) hp) hd _)
  illegal_empty e he := by cases hi.symm.trans he
  keypair := h.keypair

theorem MachineInv.exec (h : MachineInv s) {i : Instr} (hb : s.status.busy = true) (hi : current s = .ok i)
    (ht : exec i s = .next t) : MachineInv t := by
  obtain ⟨pt, hd, hp, rfl⟩ | ⟨r, -, hr, rfl⟩ | ⟨r, -, hr, rfl⟩ := exec_cases i s t ht
  · exact h.handshake hb hi hd hp
  · refine h.complete hb _ fun k hk => ?_
    subst hk
    obtain hfirst | hout := finished_cases (h.work_fits i hi) hr
    · simpa using (firstProgress_finished hfirst).2
    · exact hout.2
  · refine h.complete hb _ fun k hk => ?_
    subst hk
    simpa using (firstProgress_finished hr).2

theorem MachineInv.coreStep (h : MachineInv s) (ht : coreStep s = .next t) : MachineInv t := by
  obtain ⟨-, rfl⟩ | ⟨i, hb, hi, ht⟩ | ⟨e, hb, -, rfl⟩ := coreStep_cases s t ht
  · exact h
  · exact h.exec hb hi ht
  · exact h.complete hb .nothing (r := .raise .illegalCommand) (by simp)

/-- Operand registers belong to the invariant only while a command is in flight. -/
theorem MachineInv.setOperands (h : MachineInv s) (hb : s.status.busy = false) (opaLo opaHi opb opc : Word) :
    MachineInv { s with opaLo := opaLo, opaHi := opaHi, opb := opb, opc := opc } :=
  machineInv_of_work_empty (h.idle_empty hb) h.busy_status h.fatal_err h.keypair

theorem MachineInv.accept (h : MachineInv s) (hf : s.status.fatal = false) (w : Word) : MachineInv (accept w s) :=
  machineInv_of_work_empty rfl (by simp) (by simp [hf]) h.keypair

theorem MachineInv.hostWrite (h : MachineInv s) (idx : RegIdx) (v : Word) : MachineInv (hostWrite idx v s) := by
  obtain ⟨hw, -, hf, -⟩ | ⟨hw, -⟩ | ⟨hw, -⟩ | ⟨hw, -⟩ | ⟨hb, hw | hw | hw | hw⟩ | hw := hostWrite_cases idx v s
  all_goals rw [hw]
  · exact h.accept hf v
  · exact h.of_status (st := (dropWrite s).status) rfl id rfl rfl s.ie s.hRdata s.turns
  · exact h.of_status (st := (acknowledge v s).status) rfl (by simp +contextual) rfl rfl s.ie s.hRdata s.turns
  · exact h.of_status rfl id rfl rfl _ s.hRdata s.turns
  · exact h.setOperands hb v s.opaHi s.opb s.opc
  · exact h.setOperands hb s.opaLo v s.opb s.opc
  · exact h.setOperands hb s.opaLo s.opaHi v s.opc
  · exact h.setOperands hb s.opaLo s.opaHi s.opb v
  · exact h

theorem MachineInv.hostTurn (h : MachineInv s) (x : HostTxn) : MachineInv (hostTurn x s) := by
  cases x with
  | read idx => exact h.setHRdata _
  | write idx v => exact (h.hostWrite idx v).setHRdata none

theorem machineInv_applyReset (s : State) : MachineInv (applyReset s) :=
  machineInv_of_work_empty rfl (by simp) (by simp) (.inl rfl)

end

end Sys2Proof.Machine

/-! PROOFS. The statements of 40_random.md. -/
namespace Sys2Proof.Machine

/-! ## The invariant, and what the draws inside a command ask for -/

/-- Settles O57: each agent's turn keeps the invariant. -/
theorem stepKeepsInvariant : Obligations.StepKeepsInvariant := by
  intro s t h ht
  obtain ⟨x, -, rfl⟩ | ⟨x, -, rfl⟩ | ⟨-, ht⟩ := step_cases s t ht
  · exact machineInv_applyReset _
  · exact h.takeTurn.hostTurn x
  · exact h.takeTurn.coreStep ht

/-- Settles O27: a draw belongs to its command, and so asks for what R105 says. -/
theorem internalDrawsMeetPrecondition : Obligations.InternalDrawsMeetPrecondition := by
  intro i s pt hinv hi _ hp
  have hpt := pointOk_of_draw (hinv.work_fits i hi) hp
  refine ⟨hpt.max_pos, ?_, ?_, ?_⟩
  · rintro n sh d round rfl
    obtain ⟨hge, hisprime⟩ := hpt.millerRabin_ge
    exact ⟨millerRabin_max_toNat (by omega) sh d round, hge, hisprime⟩
  · rintro k (rfl | rfl | ⟨p, rfl⟩) <;> rfl
  · rintro p q rfl
    obtain ⟨-, hgp, hgq, hne⟩ := (pointOk_keygenE p q).mp hpt
    exact ⟨keygenE_max_toNat hgp hgq hne, hgp.totient_ge hgq hne⟩

/-! ## One draw of a drawing command -/

section
variable {i : Instr} {s : State} {pt : Point} (hd : draws i = true)
  (hp : s.work.getD (firstProgress i s) = .draw pt)
include hd hp

/-- A handshake that leaves the command in its draw changes the working state and the entropy port alone. -/
theorem exec_stays (ho : drawOutcome pt s.entropy.now = .draw pt) :
    exec i s = .next { s with work := some (.draw pt), entropy := s.entropy.after } := by
  rw [exec_draw i s pt hd hp, handshake, ho]

/-- A handshake that brings the command to its end, and the completion. -/
theorem exec_ends {r : Result} (ho : drawOutcome pt s.entropy.now = .finished r) :
    ∃ t, exec i s = .next t ∧
      exec i t = .next (complete (destOf i) r { s with entropy := s.entropy.after }) := by
  refine ⟨handshake pt s, exec_draw i s pt hd hp, ?_⟩
  rw [exec_finished i _ r hd (by simp [ho])]
  exact congrArg _ (complete_work _ r { s with entropy := s.entropy.after } _)

theorem exec_stays_of_reject {v : Word} (hnow : s.entropy.now = ⟨false, true, v⟩)
    (hv : 0xFFFFFFFF - 0xFFFFFFFF % pt.max.toNat ≤ v.toNat) :
    exec i s = .next { s with work := some (.draw pt), entropy := s.entropy.after } := by
  have hrej : uniformAccepts pt.max v = false := by
    rw [← Bool.not_eq_true, uniformAccepts_iff]
    omega
  exact exec_stays hd hp (by rw [hnow, drawOutcome_reject pt v hrej])

theorem exec_stays_of_wait {v : Word} (hnow : s.entropy.now = ⟨false, false, v⟩) :
    exec i s = .next { s with work := some (.draw pt), entropy := s.entropy.after } :=
  exec_stays hd hp (by rw [hnow, drawOutcome_wait])

/-- A word that `uniform` takes, where the pseudocode ends with its value for `RES`. -/
theorem exec_gives_of_accept (hres : destOf i = .res) {v w : Word} (hnow : s.entropy.now = ⟨false, true, v⟩)
    (hv : v.toNat < 0xFFFFFFFF - 0xFFFFFFFF % pt.max.toNat)
    (hw : resume pt (uniformValue pt.max v) = .finished (.res w)) :
    ∃ t, exec i s = .next t ∧ exec i t = .next (okRes w { s with entropy := s.entropy.after }) := by
  rw [← complete_res_eq, ← hres]
  exact exec_ends hd hp (by rw [hnow, drawOutcome_accept pt v ((uniformAccepts_iff _ _).mpr hv), hw])

theorem exec_fails_of_fail (hres : destOf i = .res) (hfail : s.entropy.now.fail = true) :
    ∃ t, exec i s = .next t ∧
      exec i t = .next (errRes .entropyUnavailable { s with entropy := s.entropy.after }) := by
  rw [← raise_res_eq, ← hres]
  exact exec_ends hd hp (drawOutcome_fail pt _ hfail)

end

/-- A command just accepted or inside the draw it starts with stands in that draw. -/
theorem getD_eq_draw {i : Instr} {s : State} {pt : Point} (hfirst : firstProgress i s = .draw pt)
    (hw : s.work = none ∨ s.work = some (.draw pt)) : s.work.getD (firstProgress i s) = .draw pt := by
  obtain hw | hw := hw <;> simp [hw, hfirst]

theorem uniformValue_eq_word (max v : Word) : uniformValue max v = word (v.toNat % max.toNat) :=
  BitVec.eq_of_toNat_eq (by simp [uniformValue, Nat.mod_eq_of_lt ((Nat.mod_le _ _).trans_lt v.isLt)])

theorem rangeValue_eq_word (a u : Word) : rangeValue a u = word (a.toNat + u.toNat) :=
  BitVec.eq_of_toNat_eq (by simp [rangeValue, Nat.add_comm])

/-! ## UNIFORM and RANGE -/

/-- Settles O24: each clause is one outcome of the handshake at `uniform(OPA_LO)`. -/
theorem uniformDrawsValue : Obligations.UniformDrawsValue := by
  intro s
  refine ⟨fun hw h0 => ?fault, fun hw h0 => ?draw⟩
  case fault =>
    rw [← raise_res_eq]
    exact exec_finished .uniform s _ rfl (by rw [hw]; exact if_pos h0)
  case draw =>
    have hp : s.work.getD (firstProgress .uniform s) = .draw (.uniform s.opaLo) :=
      getD_eq_draw (if_neg h0) hw
    refine ⟨fun v hnow hv => exec_gives_of_accept rfl hp rfl hnow hv ?_,
      fun v hnow hv => exec_stays_of_reject rfl hp hnow hv,
      fun v hnow => exec_stays_of_wait rfl hp hnow,
      fun hfail => exec_fails_of_fail rfl hp rfl hfail⟩
    rw [← uniformValue_eq_word]
    rfl

/-- Settles O25: each clause is one outcome of the handshake at `range(OPA_LO, OPB)`, which asks for `b − a`. -/
theorem rangeDrawsValue : Obligations.RangeDrawsValue := by
  intro s
  refine ⟨fun hw hle => ?fault, fun hw hlt => ?draw⟩
  case fault =>
    rw [← raise_res_eq]
    exact exec_finished .range s _ rfl (by rw [hw]; exact if_pos (BitVec.le_def.mpr hle))
  case draw =>
    have hp : s.work.getD (firstProgress .range s) = .draw (.range s.opaLo s.opb) :=
      getD_eq_draw (if_neg (BitVec.not_le.mpr (BitVec.lt_def.mpr hlt))) hw
    rw [← range_max_toNat hlt.le]
    refine ⟨fun v hnow hv => exec_gives_of_accept rfl hp rfl hnow hv ?_,
      fun v hnow hv => exec_stays_of_reject rfl hp hnow hv,
      fun v hnow => exec_stays_of_wait rfl hp hnow,
      fun hfail => exec_fails_of_fail rfl hp rfl hfail⟩
    rw [← BitVec.toNat_umod, ← uniformValue, ← rangeValue_eq_word]
    rfl

/-! ## How often each value is hit -/

theorem uniformLimit_le (max : Word) : uniformLimit max ≤ 2 ^ 32 :=
  (Nat.sub_le _ _).trans (by decide)

/-- The words that `uniform(max)` accepts and maps to `k` are those below `limit` in the residue class of `k`. -/
theorem uniform_hits_iff {max : Word} {v k : Nat} (hv : v < 2 ^ 32) (hk : k < max.toNat) :
    (uniformAccepts max (word v) = true ∧ (uniformValue max (word v)).toNat = k) ↔
      v < uniformLimit max ∧ v ≡ k [MOD max.toNat] := by
  have hword : (word v).toNat = v := by rw [BitVec.toNat_ofNat, Nat.mod_eq_of_lt hv]
  rw [uniformAccepts, decide_eq_true_iff, uniformValue, BitVec.toNat_umod, hword, Nat.ModEq, Nat.mod_eq_of_lt hk]

/-- Settles O26: of the numbers below `limit`, a multiple of `max`, every residue has equally many. -/
theorem uniformIsUnbiased : Obligations.UniformIsUnbiased := by
  intro max k hmax hk
  have hpos : 0 < max.toNat := by omega
  have hdvd : max.toNat ∣ uniformLimit max := uniformLimit_eq max ▸ Nat.dvd_mul_left _ _
  have hfilter : (Finset.range (2 ^ 32)).filter
      (fun v => uniformAccepts max (word v) = true ∧ (uniformValue max (word v)).toNat = k) =
      (Finset.range (uniformLimit max)).filter (· ≡ k [MOD max.toNat]) := by
    ext v
    rw [Finset.mem_filter, Finset.mem_filter, Finset.mem_range, Finset.mem_range]
    constructor
    · rintro ⟨hv, hhit⟩
      exact (uniform_hits_iff hv hk).mp hhit
    · rintro ⟨hv, hres⟩
      have hlt := hv.trans_le (uniformLimit_le max)
      exact ⟨hlt, (uniform_hits_iff hlt hk).mpr ⟨hv, hres⟩⟩
  rw [hfilter, ← Nat.count_eq_card_filter_range, Nat.count_modEq_card _ hpos]
  simp [Nat.mod_eq_zero_of_dvd hdvd]

end Sys2Proof.Machine

/-! PROOFS. What the Primality Engine computes: the small-prime table and the sieve's three verdicts (41_primality.md
R120 to R122), the decomposition (R123), one Miller-Rabin round (R124) and `mod_pow` under it (42_modarith.md R150). -/
namespace Sys2Proof.Machine

/-! ## The small-prime table and the sieve -/

/-- Everything trial division by a list can answer (R121). -/
theorem sieveTable_cases (n : Nat) (ts : List Nat) :
    sieveTable n ts = .prime ∧ n ∈ ts ∨
    sieveTable n ts = .rejected ∧ (∃ t ∈ ts, t ∣ n ∧ t ≠ n) ∨
    sieveTable n ts = .undecided ∧ ∀ t ∈ ts, ¬ t ∣ n := by
  induction ts with
  | nil => simp [sieveTable]
  | cons t ts ih =>
    by_cases heq : n = t
    · simp [sieveTable, heq]
    by_cases hdvd : n % t = 0
    · simp [sieveTable, heq, hdvd, Nat.dvd_of_mod_eq_zero hdvd, Ne.symm heq]
    · simpa [sieveTable, heq, hdvd, Nat.dvd_iff_mod_eq_zero] using ih

theorem primeTable_bounds : ∀ t ∈ primeTable, 3 ≤ t ∧ t ≤ 997 := by
  decide +kernel

/-- The table holds every prime from 3 to 997, because trial division by it decides every such number (R120). -/
theorem mem_primeTable_iff {n : Nat} : n ∈ primeTable ↔ Nat.Prime n ∧ 3 ≤ n ∧ n ≤ 997 := by
  refine ⟨fun h => ⟨prime_of_mem_primeTable n h, primeTable_bounds n h⟩, ?_⟩
  rintro ⟨hp, hlow, hhigh⟩
  obtain ⟨-, hmem⟩ | ⟨-, t, ht, hdvd, hne⟩ | ⟨hund, -⟩ := sieveTable_cases n primeTable
  · exact hmem
  · exact absurd ((Nat.prime_dvd_prime_iff_eq (prime_of_mem_primeTable t ht) hp).mp hdvd) hne
  · have hodd := hp.eq_two_or_odd
    have := sieveTable_decides_below_1009 n (by omega) hund
    omega

/-- What each verdict means (R122). -/
theorem sieve_cases (n : Word) :
    sieve n = .prime ∧ (Nat.Prime n.toNat ∧ 3 ≤ n.toNat ∧ n.toNat ≤ 997) ∨
    sieve n = .rejected ∧ (n.toNat < 3 ∨ ∃ t, Nat.Prime t ∧ t ≤ 997 ∧ t ∣ n.toNat ∧ t ≠ n.toNat) ∨
    sieve n = .undecided ∧ 3 ≤ n.toNat ∧ ∀ t, Nat.Prime t → t ≤ 997 → ¬ t ∣ n.toNat := by
  unfold sieve
  split
  · next h =>
    refine .inr (.inl ⟨rfl, ?_⟩)
    by_cases hlt : n.toNat < 3
    · exact .inl hlt
    · exact .inr ⟨2, Nat.prime_two, by omega, by omega, by omega⟩
  · next h =>
    obtain ⟨hv, hmem⟩ | ⟨hv, t, ht, hdvd, hne⟩ | ⟨hv, hnone⟩ := sieveTable_cases n.toNat primeTable
    · exact .inl ⟨hv, mem_primeTable_iff.mp hmem⟩
    · obtain ⟨hp, -, hle⟩ := mem_primeTable_iff.mp ht
      exact .inr (.inl ⟨hv, .inr ⟨t, hp, hle, hdvd, hne⟩⟩)
    · refine .inr (.inr ⟨hv, by omega, fun t hp hle hdvd => ?_⟩)
      have hlow : 3 ≤ t := by
        by_contra hlt
        obtain rfl : t = 2 := by have := hp.two_le; omega
        omega
      exact hnone t (mem_primeTable_iff.mpr ⟨hp, hlow, hle⟩) hdvd

section
variable {n : Word}

theorem sieve_of_small_prime (hp : Nat.Prime n.toNat) (hlow : 3 ≤ n.toNat) (hhigh : n.toNat ≤ 997) :
    sieve n = .prime := by
  obtain ⟨hv, -⟩ | ⟨-, hlt | ⟨t, ht, -, hdvd, hne⟩⟩ | ⟨-, -, hnone⟩ := sieve_cases n
  · exact hv
  · omega
  · exact absurd ((Nat.prime_dvd_prime_iff_eq ht hp).mp hdvd) hne
  · exact absurd dvd_rfl (hnone _ hp hhigh)

theorem sieve_of_small_factor
    (h : n.toNat < 3 ∨ ∃ t, Nat.Prime t ∧ t ≤ 997 ∧ t ∣ n.toNat ∧ t ≠ n.toNat) : sieve n = .rejected := by
  obtain ⟨-, hp, hlow, -⟩ | ⟨hv, -⟩ | ⟨-, hlow, hnone⟩ := sieve_cases n
  · obtain hlt | ⟨t, ht, -, hdvd, hne⟩ := h
    · omega
    · exact absurd ((Nat.prime_dvd_prime_iff_eq ht hp).mp hdvd) hne
  · exact hv
  · obtain hlt | ⟨t, ht, hle, hdvd, -⟩ := h
    · omega
    · exact absurd hdvd (hnone t ht hle)

theorem sieve_of_no_small_factor (hlow : 3 ≤ n.toNat) (hnone : ∀ t, Nat.Prime t → t ≤ 997 → ¬ t ∣ n.toNat) :
    sieve n = .undecided := by
  obtain ⟨-, hp, -, hhigh⟩ | ⟨-, hlt | ⟨t, ht, hle, hdvd, -⟩⟩ | ⟨hv, -⟩ := sieve_cases n
  · exact absurd dvd_rfl (hnone _ hp hhigh)
  · omega
  · exact absurd hdvd (hnone t ht hle)
  · exact hv

/-- A number up to 997 that is no prime has a smaller prime factor, its least one. -/
theorem sieve_of_small_not_prime (hp : ¬ Nat.Prime n.toNat) (hhigh : n.toNat ≤ 997) : sieve n = .rejected := by
  apply sieve_of_small_factor
  by_cases hlt : n.toNat < 3
  · exact .inl hlt
  · have hmin : Nat.Prime (Nat.minFac n.toNat) := Nat.minFac_prime (by omega)
    exact .inr ⟨_, hmin, (Nat.minFac_le (by omega)).trans hhigh, Nat.minFac_dvd _, fun h => hp (h ▸ hmin)⟩

end

/-- `get_prime` takes the candidate exactly when it is a prime (R126). -/
theorem candidatePasses_iff {c : Word} (hlow : 3 ≤ c.toNat) (hhigh : c.toNat ≤ 997) :
    candidatePasses c = true ↔ Nat.Prime c.toNat := by
  refine ⟨fun h => prime_of_sieve (by simpa [candidatePasses] using h), fun hp => ?_⟩
  simp [candidatePasses, sieve_of_small_prime hp hlow hhigh]

/-! ## The decomposition -/

/-- The loop of `decompose` ends on an odd number (R123). -/
theorem decomposeLoop_odd {k s d : Nat} (hd : d ≠ 0) (hk : d < 2 ^ k) : (decomposeLoop k s d).2 % 2 = 1 := by
  induction k generalizing s d with
  | zero => exact absurd (by simpa using hk) hd
  | succ k ih =>
    unfold decomposeLoop
    split
    · exact ih (by omega) (by omega)
    · show d % 2 = 1
      omega

theorem decompose_spec {n : Word} (hn : 2 ≤ n.toNat) :
    2 ^ (decompose n).1 * (decompose n).2.toNat = n.toNat - 1 ∧ (decompose n).2.toNat % 2 = 1 := by
  have hlt := n.isLt
  have hprod : 2 ^ (decompose n).1 * (decomposeLoop 32 0 (n.toNat - 1)).2 = n.toNat - 1 := by
    simpa [decompose] using decomposeLoop_product 32 0 (n.toNat - 1)
  have hle : (decomposeLoop 32 0 (n.toNat - 1)).2 ≤ n.toNat - 1 :=
    Nat.le_of_dvd (by omega) (Dvd.intro_left _ hprod)
  have hword : (decompose n).2.toNat = (decomposeLoop 32 0 (n.toNat - 1)).2 :=
    Nat.mod_eq_of_lt (by omega)
  rw [hword]
  exact ⟨hprod, decomposeLoop_odd (by omega) (by omega)⟩

/-! ## `mod_pow` and one Miller-Rabin round -/

/-- The loop of `mod_pow` multiplies the power into the accumulator (42_modarith.md R150). -/
theorem modPowLoop_eq {m k acc b e : Nat} (hacc : acc < m) (he : e < 2 ^ k) :
    modPowLoop m k acc b e = acc * b ^ e % m := by
  induction k generalizing acc b e with
  | zero =>
    obtain rfl : e = 0 := by simpa using he
    simp [modPowLoop, Nat.mod_eq_of_lt hacc]
  | succ k ih =>
    by_cases h0 : e = 0
    · simp [modPowLoop, h0, Nat.mod_eq_of_lt hacc]
    have hsquare (a : Nat) : a * (b * b % m) ^ (e / 2) % m = a * b ^ (2 * (e / 2)) % m := by
      rw [Nat.mul_mod, ← Nat.pow_mod, ← Nat.mul_mod, pow_mul, sq]
    rw [modPowLoop, if_neg h0]
    split
    · next hodd =>
      rw [ih (Nat.mod_lt _ (by omega)) (by omega), hsquare, Nat.mod_mul_mod, mul_assoc, ← pow_succ']
      congr 3
      omega
    · rw [ih hacc (by omega), hsquare]
      congr 3
      omega

/-- `mod_pow` is the exact power modulo the modulus (42_modarith.md R150). -/
theorem modPow_toNat (base : DWord) (exponent : Word) {m : Word} (hm : m ≠ 0#32) :
    (modPow base exponent m).toNat = base.toNat ^ exponent.toNat % m.toNat := by
  have hpos : 0 < m.toNat := Nat.pos_of_ne_zero fun h => hm (BitVec.eq_of_toNat_eq h)
  unfold modPow
  split
  · next h => simp [h, Nat.mod_one]
  · next h =>
    have hne : m.toNat ≠ 1 := fun h1 => h (BitVec.eq_of_toNat_eq h1)
    rw [modPowLoop_eq (by omega) exponent.isLt, one_mul, ← Nat.pow_mod, BitVec.toNat_ofNat]
    exact Nat.mod_eq_of_lt ((Nat.mod_lt _ hpos).trans m.isLt)

/-- The squaring chain goes through the powers `x ^ 2 ^ r` (R124). -/
theorem mrChain_iff {n k x : Nat} (hx : x < n) : mrChain n k x = true ↔ ∃ r < k, x ^ 2 ^ r % n = n - 1 := by
  induction k generalizing x with
  | zero => simp [mrChain]
  | succ k ih =>
    have hpow (r : Nat) : (x * x % n) ^ 2 ^ r % n = x ^ 2 ^ (r + 1) % n := by
      rw [← Nat.pow_mod, ← sq, ← pow_mul, ← pow_succ']
    rw [Nat.exists_lt_succ_left, mrChain, pow_zero, pow_one, Nat.mod_eq_of_lt hx]
    simp only [← hpow, ← ih (Nat.mod_lt (x * x) (by omega : 0 < n))]
    split <;> simp [*]

/-- The pass condition of a round in closed form, for every exclusive end of `r` (R124). -/
theorem mrRoundPasses_iff (rEnd : Nat → Nat) {n : Word} (hn : 2 ≤ n.toNat) (s : Nat) (d base : Word) :
    mrRoundPasses rEnd n s d base = true ↔
      (base.toNat ^ d.toNat % n.toNat = 1 ∨
        ∃ r, r < rEnd s ∧ base.toNat ^ (d.toNat * 2 ^ r) % n.toNat = n.toNat - 1) := by
  have hx : (modPow (base.setWidth 64) d n).toNat = base.toNat ^ d.toNat % n.toNat := by
    rw [modPow_toNat _ _ (by rintro rfl; simp at hn), BitVec.toNat_setWidth_of_le (by decide)]
  have hpow (r : Nat) : (base.toNat ^ d.toNat % n.toNat) ^ 2 ^ r % n.toNat =
      base.toNat ^ (d.toNat * 2 ^ r) % n.toNat := by
    rw [← Nat.pow_mod, ← pow_mul]
  unfold mrRoundPasses
  simp only [hx, ← hpow, ← mrChain_iff (Nat.mod_lt (base.toNat ^ d.toNat) (by omega : 0 < n.toNat))]
  split <;> simp [*]

end Sys2Proof.Machine

/-! PROOFS. The statements of 41_primality.md. -/
namespace Sys2Proof.Machine

/-! ## The functions of the engine -/

/-- Settles O28: the length and the order by running over the table, its members by `mem_primeTable_iff`. -/
theorem primeTableIsOddPrimes : Obligations.PrimeTableIsOddPrimes :=
  ⟨rfl, by decide +kernel, fun _ => mem_primeTable_iff⟩

/-- Settles O31, from `decompose_spec`: `n − 1` is even, so `s` is not 0, and below `2 ^ 32`, so `s` is below 32. -/
theorem decomposeIsRight : Obligations.DecomposeIsRight := by
  intro n hlow hodd
  obtain ⟨hprod, hd⟩ := decompose_spec (n := n) (by omega)
  refine ⟨hprod, hd, Nat.pos_of_ne_zero fun h0 => ?_, ?_⟩
  · rw [h0] at hprod
    omega
  · have hle : 2 ^ (decompose n).1 ≤ n.toNat - 1 := Nat.le_of_dvd (by omega) (Dvd.intro _ hprod)
    have hlt : 2 ^ (decompose n).1 < 2 ^ 32 := by have := n.isLt; omega
    exact Nat.le_of_lt_succ ((Nat.pow_lt_pow_iff_right (by decide)).mp hlt)

/-- Settles O32, by `mrRoundPasses_iff` at both ends of `r`. -/
theorem roundPassesClosedForm : Obligations.RoundPassesClosedForm := by
  intro n d base s hn
  exact ⟨mrRoundPasses_iff mrREnd (by omega) s d base, mrRoundPasses_iff mrREndAlt (by omega) s d base⟩

/-- Settles O36: every candidate is below 997. -/
theorem candidatesDecidedBySieve : Obligations.CandidatesDecidedBySieve := by
  intro c hlow hhigh
  exact ⟨fun hp => sieve_of_small_prime hp (by omega) (by omega), fun hp => sieve_of_small_not_prime hp (by omega)⟩

/-! ## SIEVE, and ISPRIME where the sieve decides -/

section
variable {s : State}

theorem exec_sieve {v : Verdict} (h : sieve s.opaLo = v) : exec .sieve s = .next (okRes (verdictWord v) s) := by
  rw [← h]
  exact congrArg _ (complete_res_eq _ s)

/-- ISPRIME comes to its end at once where the sieve decides. -/
theorem exec_isprime_of_verdict (hw : s.work = none) {b : Bool}
    (h : firstProgress .isprime s = .finished (.res (boolWord b))) :
    exec .isprime s = .next (okRes (boolWord b) s) := by
  rw [← complete_res_eq]
  exact exec_finished .isprime s _ rfl (by rwa [hw])

theorem startIsprime_of_prime (h : sieve s.opaLo = .prime) :
    startIsprime s = .finished (.res (boolWord true)) := by
  simp [startIsprime, opA, h]

theorem startIsprime_of_rejected (h : sieve s.opaLo = .rejected) :
    startIsprime s = .finished (.res (boolWord false)) := by
  simp [startIsprime, opA, h]

theorem startIsprime_of_undecided (h : sieve s.opaLo = .undecided) : startIsprime s = mrStart s.opaLo := by
  simp [startIsprime, opA, h]

theorem startMrtest_of_fault (h : s.opaLo.toNat < 5 ∨ s.opaLo.toNat % 2 = 0) :
    startMrtest s = .finished (.raise .operandFault) :=
  if_pos h

theorem startMrtest_of_odd (hlow : 5 ≤ s.opaLo.toNat) (hodd : s.opaLo.toNat % 2 = 1) :
    startMrtest s = mrStart s.opaLo :=
  if_neg (by simp only [opA]; omega)

end

/-- Settles O29: each clause is one verdict of the sieve. -/
theorem sieveClassifies : Obligations.SieveClassifies := by
  refine ⟨decode_encode .sieve, fun s => ?_⟩
  refine ⟨fun hp hlow hhigh => ?prime, fun h => ?rejected, fun hlow hnone => ?undecided⟩
  case prime => exact exec_sieve (sieve_of_small_prime hp hlow hhigh)
  case rejected => exact exec_sieve (sieve_of_small_factor h)
  case undecided =>
    have hv := sieve_of_no_small_factor hlow hnone
    exact ⟨exec_sieve hv, (sieve_undecided hv).2⟩

/-- Settles O30: each clause is one verdict of the sieve, with which ISPRIME ends before a draw. -/
theorem isprimeDecidedBySieve : Obligations.IsprimeDecidedBySieve := by
  intro s hw
  refine ⟨fun hp hlow hhigh => ?prime, fun h => ?rejected⟩
  case prime => exact exec_isprime_of_verdict hw (startIsprime_of_prime (sieve_of_small_prime hp hlow hhigh))
  case rejected => exact exec_isprime_of_verdict hw (startIsprime_of_rejected (sieve_of_small_factor h))

/-! ## Miller-Rabin in MRTEST and ISPRIME -/

/-- ISPRIME and MRTEST differ before the first draw alone. -/
theorem exec_isprime_eq_mrtest {s : State}
    (h : s.work.getD (startIsprime s) = s.work.getD (startMrtest s)) : exec .isprime s = exec .mrtest s := by
  show Host.Outcome.next (advance .res (startIsprime s) s) = .next (advance .res (startMrtest s) s)
  simp only [advance, h]

/-- Settles O34: an undecided `n` meets the precondition of MRTEST, and in flight both step by the working state. -/
theorem isprimeRunsMillerRabin : Obligations.IsprimeRunsMillerRabin := by
  intro s
  refine ⟨fun hw hv => ?accepted, fun n sh d round hw => ?draw, fun r hw => ?finished⟩
  case accepted =>
    obtain ⟨hodd, hlow⟩ := sieve_undecided hv
    refine ⟨exec_isprime_eq_mrtest ?_, hodd, hlow⟩
    rw [startIsprime_of_undecided hv, startMrtest_of_odd (by omega) hodd]
  case draw => exact exec_isprime_eq_mrtest (by rw [hw]; rfl)
  case finished => exact exec_isprime_eq_mrtest (by rw [hw]; rfl)

/-- A handshake that leads the command on to another draw changes the working state and the entropy port alone. -/
theorem exec_goes_on {i : Instr} {s : State} {pt pt' : Point} (hd : draws i = true)
    (hp : s.work.getD (firstProgress i s) = .draw pt) (ho : drawOutcome pt s.entropy.now = .draw pt') :
    exec i s = .next { s with work := some (.draw pt'), entropy := s.entropy.after } := by
  rw [exec_draw i s pt hd hp, handshake, ho]

/-- The base that an accepted word gives is `2 + (v mod (n − 3))` (R124). -/
theorem drawOutcome_millerRabin {n v : Word} (hn : 5 ≤ n.toNat)
    (hv : v.toNat < 0xFFFFFFFF - 0xFFFFFFFF % (n.toNat - 3)) (sh : Nat) (d : Word) (round : Nat) :
    drawOutcome (.millerRabin n sh d round) ⟨false, true, v⟩ =
      mrNext n sh d round (word (v.toNat % (n.toNat - 3) + 2)) := by
  have hmax := millerRabin_max_toNat (n := n) (by omega) sh d round
  rw [drawOutcome_accept _ v ((uniformAccepts_iff _ _).mpr (by rwa [hmax])), Nat.add_comm, ← hmax,
    ← BitVec.toNat_umod, ← uniformValue]
  exact congrArg (mrNext n sh d round) (rangeValue_eq_word _ _)

/-- Settles O33: each clause is one case of `mrNext` on the word's base. -/
theorem mrtestRounds : Obligations.MrtestRounds := by
  intro s n d v sh round
  refine ⟨fun hw hfault => ?fault, fun hpt hn hnow hv => ?round⟩
  case fault =>
    rw [← raise_res_eq]
    exact exec_finished .mrtest s _ rfl (by rw [hw]; exact startMrtest_of_fault hfault)
  case round =>
    have hp : s.work.getD (firstProgress .mrtest s) = .draw (.millerRabin n sh d round) := by
      obtain ⟨hw, rfl, hodd, hdec, rfl⟩ | hw := hpt
      · rw [hw]
        exact (startMrtest_of_odd hn hodd).trans (by simp [mrStart, hdec])
      · rw [hw]
        rfl
    have ho := drawOutcome_millerRabin hn hv sh d round
    rw [← hnow, mrNext_eq] at ho
    refine ⟨fun hfail => ?fails, fun hpass hlt => ?goes_on, fun hpass hten => ?ends⟩
    case fails =>
      rw [hfail] at ho
      simpa [complete_res_eq, destOf, boolWord] using exec_ends rfl hp ho
    case goes_on =>
      rw [hpass, if_pos rfl, mrPassed, if_pos (show round < Config.mrRounds from hlt)] at ho
      exact exec_goes_on rfl hp ho
    case ends =>
      rw [hpass, if_pos rfl, mrPassed, if_neg (by rw [hten]; decide)] at ho
      simpa [complete_res_eq, destOf, boolWord] using exec_ends rfl hp ho

/-! ## GETPRIME -/

/-- The candidate that an accepted word gives is `128 + (v mod 128)` (R126). -/
theorem candidate_uniformValue (v : Word) : candidate (uniformValue 128#32 v) = word (128 + v.toNat % 128) := by
  rw [uniformValue_eq_word]
  exact BitVec.eq_of_toNat_eq (by simp [candidate, Config.primeLow, Nat.add_comm])

/-- What an attempt makes of an accepted word (R126, 60_exceptions.md R207). -/
theorem drawOutcome_getPrime {v : Word} (hv : v.toNat < 0xFFFFFF80) (attempt : Nat) :
    drawOutcome (.getPrime attempt) ⟨false, true, v⟩ =
      if Nat.Prime (128 + v.toNat % 128) then .finished (.res (word (128 + v.toNat % 128)))
      else nextAttempt attempt .getPrime := by
  have hc : (word (128 + v.toNat % 128)).toNat = 128 + v.toNat % 128 := Nat.mod_eq_of_lt (by omega)
  have hpass := candidatePasses_iff (c := word (128 + v.toNat % 128)) (by omega) (by omega)
  rw [hc] at hpass
  have hmax : (Point.getPrime attempt).max = 128#32 := rfl
  have hacc : uniformAccepts (Point.getPrime attempt).max v = true := by
    rw [hmax, uniformAccepts_iff]
    exact hv
  rw [drawOutcome_accept _ v hacc, hmax, getPrimeCall_getPrime.resume_eq, candidate_uniformValue]
  simp only [hpass]

/-- Settles O35: each clause is one case of the attempt's outcome. -/
theorem getprimeTriesCandidates : Obligations.GetprimeTriesCandidates := by
  intro s attempt v hpt hnow hv
  have hp : s.work.getD (firstProgress .getprime s) = .draw (.getPrime attempt) := by
    obtain ⟨hw, rfl⟩ | hw := hpt <;> rw [hw] <;> rfl
  have ho := drawOutcome_getPrime hv attempt
  rw [← hnow] at ho
  refine ⟨fun hprime => ?prime, fun hcomp hlt => ?retry, fun hcomp hlast => ?exhausted⟩
  case prime =>
    rw [if_pos hprime] at ho
    simpa [complete_res_eq, destOf] using exec_ends rfl hp ho
  case retry =>
    rw [if_neg hcomp, nextAttempt, if_pos (show attempt < Config.primeAttempts from hlt)] at ho
    exact exec_goes_on rfl hp ho
  case exhausted =>
    rw [if_neg hcomp, nextAttempt, if_neg (by rw [hlast]; decide)] at ho
    simpa [raise_res_eq, destOf] using exec_ends rfl hp ho

end Sys2Proof.Machine

/-! PROOFS. The statements of 42_modarith.md. -/
namespace Sys2Proof.Machine

/-! ## The operands and the outcomes -/

/-- Narrowing a word's own value changes nothing (42_modarith.md R156). -/
theorem word_toNat (w : Word) : word w.toNat = w := by
  rw [word, BitVec.ofNat_toNat, BitVec.setWidth_eq]

/-- The 64-bit operand A as a number (10_state.md R23). -/
theorem opA64_toNat (s : State) : (opA64 s).toNat = s.opaHi.toNat * 2 ^ 32 + s.opaLo.toNat := by
  rw [opA64, BitVec.toNat_append, ← Nat.shiftLeft_add_eq_or_of_lt s.opaLo.isLt, Nat.shiftLeft_eq]

theorem gcd_eq_word (a b : Word) : gcd a b = word (Nat.gcd a.toNat b.toNat) := by
  rw [← gcd_toNat, word_toNat]

section
variable {s : State}

theorem modpowResult_of_modulus_zero (hc : s.opc = 0#32) : modpowResult s = .raise .operandFault :=
  if_pos hc

theorem modpowResult_of_modulus_ne_zero (hc : s.opc ≠ 0#32) : modpowResult s =
    .res (word ((s.opaHi.toNat * 2 ^ 32 + s.opaLo.toNat) ^ s.opb.toNat % s.opc.toNat)) := by
  rw [← opA64_toNat, ← modPow_toNat _ _ hc, word_toNat]
  exact if_neg hc

theorem modinvResult_of_modulus_zero (hb : s.opb = 0#32) : modinvResult s = .raise .operandFault :=
  if_pos hb

theorem modinvResult_of_not_coprime (hb : s.opb ≠ 0#32) (hg : Nat.gcd s.opaLo.toNat s.opb.toNat ≠ 1) :
    modinvResult s = .raise .inverseUndefined := by
  have hgcd : gcd s.opaLo s.opb ≠ 1#32 := mt (gcd_eq_one_iff _ _).mp hg
  rw [modinvResult, opA, opB, if_neg hb, if_pos hgcd]

theorem modinvResult_of_inverse {x : Word} (hb : s.opb ≠ 0#32) (hg : Nat.gcd s.opaLo.toNat s.opb.toNat = 1)
    (hx : modularInverse s.opaLo s.opb = some x) : modinvResult s = .res x := by
  have hgcd : gcd s.opaLo s.opb = 1#32 := (gcd_eq_one_iff _ _).mpr hg
  rw [modinvResult, opA, opB, if_neg hb, if_neg (not_not.mpr hgcd), hx]

end

/-! ## The statements -/

/-- Settles O19: `mod_pow` is the exact power of operand A at 64 bits. -/
theorem modpowComputesPower : Obligations.ModpowComputesPower := by
  refine ⟨decode_encode .modpow, fun s => ⟨fun hc => ?fault, fun hc => ?power⟩⟩
  case fault => rw [exec, execModpow, modpowResult_of_modulus_zero hc, raise_res_eq]
  case power => rw [exec, execModpow, modpowResult_of_modulus_ne_zero hc, complete_res_eq]

/-- Settles O22: the Euclidean loop computes the greatest common divisor. -/
theorem gcdComputesGcd : Obligations.GcdComputesGcd := by
  refine ⟨decode_encode .gcd, fun s => ?_⟩
  rw [exec, execGcd, gcdResult, opA, opB, gcd_eq_word, complete_res_eq]

/-- Settles O23: on coprime operands the extended loop's coefficient, normalised, is the inverse. -/
theorem modinvComputesInverse : Obligations.ModinvComputesInverse := by
  refine ⟨decode_encode .modinv, fun s => ⟨fun hb => ?fault, fun hb hg => ?undefined, fun hb hg => ?inverse⟩⟩
  case fault => rw [exec, execModinv, modinvResult_of_modulus_zero hb, raise_res_eq]
  case undefined => rw [exec, execModinv, modinvResult_of_not_coprime hb hg, raise_res_eq]
  case inverse =>
    obtain ⟨x, hx, hlt, hmod⟩ := modularInverse_spec hb hg
    refine ⟨x, ?_, hlt, hmod⟩
    rw [exec, execModinv, modinvResult_of_inverse hb hg hx, complete_res_eq]

end Sys2Proof.Machine

/-! PROOFS. What the Key Generator's draws make of an accepted word (43_keygen.md R171), and the Keypair a generated
pair of primes leaves (R173, R174). -/
namespace Sys2Proof.Machine

/-! ## Candidates -/

/-- The candidate of an accepted word as a number. -/
theorem candidateWord_toNat (v : Word) : (word (128 + v.toNat % 128)).toNat = 128 + v.toNat % 128 :=
  Nat.mod_eq_of_lt (by omega)

theorem genPrime_candidateWord {v : Word} (hv : Nat.Prime (128 + v.toNat % 128)) :
    GenPrime (word (128 + v.toNat % 128)) := by
  rw [GenPrime, candidateWord_toNat]
  exact ⟨hv, by omega, by omega⟩

theorem candidateWord_ne {v w : Word} (h : v.toNat % 128 ≠ w.toNat % 128) :
    word (128 + v.toNat % 128) ≠ word (128 + w.toNat % 128) := fun heq => by
  have := congrArg BitVec.toNat heq
  rw [candidateWord_toNat, candidateWord_toNat] at this
  omega

theorem candidateWord_totient (v w : Word) :
    ((word (128 + v.toNat % 128)).toNat - 1) * ((word (128 + w.toNat % 128)).toNat - 1) =
      (127 + v.toNat % 128) * (127 + w.toNat % 128) := by
  rw [candidateWord_toNat, candidateWord_toNat, Nat.sub_add_comm (by decide), Nat.sub_add_comm (by decide)]

theorem candidateWord_keyModulus (v w : Word) :
    keyModulus (word (128 + v.toNat % 128)) (word (128 + w.toNat % 128)) =
      word ((128 + v.toNat % 128) * (128 + w.toNat % 128)) :=
  (BitVec.ofNat_mul ..).symm

/-- What an attempt of any `get_prime` call makes of an accepted word (41_primality.md R126). -/
theorem drawOutcome_getPrimeCall {pt : Nat → Point} {found : Word → Progress} (hc : GetPrimeCall pt found)
    {v : Word} (hv : v.toNat < 0xFFFFFF80) (attempt : Nat) :
    drawOutcome (pt attempt) ⟨false, true, v⟩ =
      if Nat.Prime (128 + v.toNat % 128) then found (word (128 + v.toNat % 128)) else nextAttempt attempt pt := by
  have hmax : (pt attempt).max = 128#32 := hc.max_eq attempt
  have hacc : uniformAccepts (pt attempt).max v = true := by
    rw [hmax, uniformAccepts_iff]
    exact hv
  have hcand := candidateWord_toNat v
  have hpass := candidatePasses_iff (c := word (128 + v.toNat % 128)) (by omega) (by omega)
  rw [hcand] at hpass
  rw [drawOutcome_accept _ v hacc, hmax, hc.resume_eq, candidate_uniformValue]
  simp only [hpass]

/-! ## Exponents -/

/-- The exponent of a word that `uniform(m)` takes does not wrap. -/
theorem exponentWord_toNat {v : Word} {m : Nat} (hv : v.toNat < 0xFFFFFFFF - 0xFFFFFFFF % m) :
    (word (v.toNat % m + 1)).toNat = v.toNat % m + 1 :=
  Nat.mod_eq_of_lt (by have := Nat.mod_le v.toNat m; omega)

section
variable {p q : Word} (hp : GenPrime p) (hq : GenPrime q)
include hp hq

/-- The exponent that an accepted word gives is `1 + (v mod (totient − 1))` (R171 step 5). -/
theorem drawOutcome_keygenE {v : Word}
    (hv : v.toNat < 0xFFFFFFFF - 0xFFFFFFFF % ((p.toNat - 1) * (q.toNat - 1) - 1)) :
    drawOutcome (.keygenE p q) ⟨false, true, v⟩ =
      tryExponent p q (word (v.toNat % ((p.toNat - 1) * (q.toNat - 1) - 1) + 1)) := by
  have hpos : 1 ≤ (keyTotient p q).toNat := by
    rw [hp.keyTotient_toNat hq]
    have := hp.2.1
    have := hq.2.1
    exact Nat.mul_pos (by omega) (by omega)
  have hmax : (Point.keygenE p q).max.toNat = (p.toNat - 1) * (q.toNat - 1) - 1 :=
    (word_sub_toNat 1#32 (keyTotient p q) hpos).trans (by rw [hp.keyTotient_toNat hq]; rfl)
  rw [drawOutcome_accept _ v ((uniformAccepts_iff _ _).mpr (by rwa [hmax])), Nat.add_comm, ← hmax,
    ← BitVec.toNat_umod, ← uniformValue]
  exact congrArg (tryExponent p q) (rangeValue_eq_word _ _)

end

/-- The Keypair an exponent candidate completes holds the candidate, the modulus and the two primes. -/
theorem tryExponent_keypair {p q e : Word} {k : Keypair} (h : tryExponent p q e = .finished (.keypair k)) :
    k = ⟨e, k.d, keyModulus p q, p, q⟩ := by
  unfold tryExponent at h
  split at h
  · split at h <;> cases h
    rfl
  · cases h

/-- An exponent coprime to the totient completes the Keypair with its inverse (R171 steps 5 to 7), in numbers. -/
theorem tryExponent_inverse {p q : Word} (hp : GenPrime p) (hq : GenPrime q) (hne : p ≠ q) {e : Nat}
    (hlow : 1 ≤ e) (hhigh : e < (p.toNat - 1) * (q.toNat - 1))
    (hcop : Nat.gcd e ((p.toNat - 1) * (q.toNat - 1)) = 1) :
    ∃ d, tryExponent p q (word e) = .finished (.keypair ⟨word e, d, keyModulus p q, p, q⟩) ∧
      1 ≤ d.toNat ∧ d.toNat < (p.toNat - 1) * (q.toNat - 1) ∧
      e * d.toNat % ((p.toNat - 1) * (q.toNat - 1)) = 1 := by
  have he : (word e).toNat = e := by
    rw [← hp.keyTotient_toNat hq] at hhigh
    exact Nat.mod_eq_of_lt (hhigh.trans (keyTotient p q).isLt)
  obtain ⟨k, hk, htry⟩ := tryExponent_coprime hp hq hne (e := word e) (by omega) (by omega)
    (by rwa [gcd_eq_one_iff, he, hp.keyTotient_toNat hq])
  have hfields := tryExponent_keypair htry
  rw [hfields] at htry hk
  have hinv := hk.inverse
  rw [he] at hinv
  exact ⟨k.d, htry, hk.d_low, hk.d_high, hinv⟩

theorem Reaches.of_outcome {pt : Point} {v : Word} {ws rest : List Word} {p q : Progress}
    (ho : drawOutcome pt ⟨false, true, v⟩ = p) (h : Reaches p ws rest q) : Reaches (.draw pt) (v :: ws) rest q := by
  subst ho
  exact .word h

/-- Three accepted words that give two distinct primes and an exponent lead KEYGEN to its test of the exponent. -/
theorem reaches_tryExponent {v w x : Word} (hv : v.toNat < 0xFFFFFF80) (hw : w.toNat < 0xFFFFFF80)
    (hpv : Nat.Prime (128 + v.toNat % 128)) (hpw : Nat.Prime (128 + w.toNat % 128))
    (hne : v.toNat % 128 ≠ w.toNat % 128) {p q : Word} (hp : p = word (128 + v.toNat % 128))
    (hq : q = word (128 + w.toNat % 128))
    (hx : x.toNat < 0xFFFFFFFF - 0xFFFFFFFF % ((p.toNat - 1) * (q.toNat - 1) - 1)) :
    Reaches (.draw (.keygenP 1)) [v, w, x] []
      (tryExponent p q (word (x.toNat % ((p.toNat - 1) * (q.toNat - 1) - 1) + 1))) := by
  subst hp hq
  have hfirst := drawOutcome_getPrimeCall getPrimeCall_keygenP hv 1
  have hsecond := drawOutcome_getPrimeCall (getPrimeCall_keygenQ (word (128 + v.toNat % 128))) hw 1
  have hthird := drawOutcome_keygenE (genPrime_candidateWord hpv) (genPrime_candidateWord hpw) hx
  rw [if_pos hpv] at hfirst
  rw [if_pos hpw, if_pos (candidateWord_ne hne.symm)] at hsecond
  exact .of_outcome hfirst (.of_outcome hsecond (.of_outcome hthird (.refl _ _)))

/-! ## The bounds of a generated pair -/

/-- The largest prime up to 255 is 251, and the one before it is 241. -/
theorem GenPrime.eq_251_or_le_241 {p : Word} (hp : GenPrime p) : p.toNat = 251 ∨ p.toNat ≤ 241 := by
  obtain ⟨hprime, -, hhigh⟩ := hp
  generalize p.toNat = n at hprime hhigh
  by_contra! h
  obtain ⟨hne, hgt⟩ := h
  interval_cases n <;> revert hprime hne <;> norm_num

/-- A generated prime is one of the table's, from 131 to 251 (R174). -/
theorem GenPrime.bounds {p : Word} (hp : GenPrime p) : 131 ≤ p.toNat ∧ p.toNat ≤ 251 ∧ p.toNat ∈ primeTable := by
  have hlow := hp.eq_131_or_ge_137
  have hhigh := hp.eq_251_or_le_241
  exact ⟨by omega, by omega, mem_primeTable_iff.mpr ⟨hp.1, by omega, by omega⟩⟩

/-- The products of two distinct generated primes, each less `c`, lie between that of the two smallest primes and
that of the two largest (R174: `c` is 0 for the modulus, 1 for the totient). -/
theorem GenPrime.product_bounds {p q : Word} (hp : GenPrime p) (hq : GenPrime q) (hne : p ≠ q) (c : Nat) :
    (131 - c) * (137 - c) ≤ (p.toNat - c) * (q.toNat - c) ∧
      (p.toNat - c) * (q.toNat - c) ≤ (241 - c) * (251 - c) := by
  wlog hlt : p.toNat < q.toNat generalizing p q
  · have hne' : p.toNat ≠ q.toNat := fun h => hne (BitVec.eq_of_toNat_eq h)
    rw [Nat.mul_comm (p.toNat - c)]
    exact this hq hp hne.symm (by omega)
  have hplow := hp.eq_131_or_ge_137
  have hqlow := hq.eq_131_or_ge_137
  have hphigh := hp.eq_251_or_le_241
  have hqhigh := hq.eq_251_or_le_241
  exact ⟨Nat.mul_le_mul (by omega) (by omega), Nat.mul_le_mul (by omega) (by omega)⟩

/-! ## Core steps of KEYGEN -/

/-- A handshake that brings KEYGEN to an error, and its error completion. -/
theorem execTimes_two_keygen_raise {s : State} {pt : Point} {e : ErrKind}
    (hp : s.work.getD (firstProgress .keygen s) = .draw pt)
    (ho : drawOutcome pt s.entropy.now = .finished (.raise e)) :
    execTimes 2 .keygen s = .next (errKeys e { s with entropy := s.entropy.after }) := by
  obtain ⟨t, hst, ht⟩ := exec_ends (i := .keygen) rfl hp ho
  rw [execTimes_add 1 ((execTimes_one _ _).trans hst), execTimes_one, ht, destOf, raise_keypair_eq]

/-- A rejected candidate in a `get_prime` call of KEYGEN: the next attempt of the call, or exhaustion after the last. -/
theorem keygen_rejected_candidate {pt : Nat → Point} {found : Word → Progress} (hc : GetPrimeCall pt found)
    {s : State} {v : Word} {attempt : Nat} (hnow : s.entropy.now = ⟨false, true, v⟩)
    (hw : s.work = some (.draw (pt attempt))) (hv : v.toNat < 0xFFFFFF80)
    (hcomp : ¬ Nat.Prime (128 + v.toNat % 128)) :
    (attempt < 400 → exec .keygen s =
      .next { s with work := some (.draw (pt (attempt + 1))), entropy := s.entropy.after }) ∧
    (attempt = 400 →
      execTimes 2 .keygen s = .next (errKeys .primeExhausted { s with entropy := s.entropy.after })) := by
  have hp : s.work.getD (firstProgress .keygen s) = .draw (pt attempt) := by rw [hw]; rfl
  have ho := drawOutcome_getPrimeCall hc hv attempt
  rw [← hnow, if_neg hcomp, nextAttempt] at ho
  refine ⟨fun hlt => ?retry, fun hlast => ?exhausted⟩
  case retry =>
    rw [if_pos (show attempt < Config.primeAttempts from hlt)] at ho
    exact exec_goes_on rfl hp ho
  case exhausted =>
    rw [if_neg (by rw [hlast]; decide)] at ho
    exact execTimes_two_keygen_raise hp ho

/-- A KEYGEN just accepted that the words `ws` lead to the Keypair `k` takes one step a word and then completes. -/
theorem keygen_completes_of_reaches {s : State} {ws : List Word} {k : Keypair} (hw : s.work = none)
    (hp : s.entropy.presents (ws.map presentWord))
    (h : Reaches (.draw (.keygenP 1)) ws [] (.finished (.keypair k))) :
    ∃ t, execTimes ws.length .keygen s = .next t ∧
      exec .keygen t = .next (okKeys k { s with entropy := s.entropy.afterMany ws.length }) := by
  obtain ⟨w, hfin, ht⟩ := execTimes_of_reaches (i := .keygen) rfl (by rwa [hw]) hp
  refine ⟨_, ht, ?_⟩
  rw [exec_finished .keygen _ _ rfl hfin, ← complete_keypair_eq .keypair]
  exact congrArg _ (complete_work _ _ { s with entropy := s.entropy.afterMany ws.length } w)

/-- From a state that meets the invariant a KEYGEN that completes without an error leaves a generated Keypair. -/
theorem keypairOk_of_keygen {s t : State} (hinv : MachineInv s) (hb : s.status.busy = true)
    (hi : decode s.cmd = .ok .keygen) (ht : exec .keygen s = .next t) (hdone : t.status.busy = false)
    (herr : t.status.err = none) : KeypairOk t.kp := by
  obtain ⟨pt, -, -, rfl⟩ | ⟨r, -, hr, rfl⟩ | ⟨r, hd, -, -⟩ := exec_cases .keygen s t ht
  · rw [handshake_status, hb] at hdone
    cases hdone
  · obtain hfirst | hout := finished_cases (hinv.work_fits .keygen hi) hr
    · cases hfirst
    cases r with
    | res v => simp [OutcomeOk] at hout
    | raise e => simp [destOf, raise_keypair_eq, errKeys, errStatus] at herr
    | keypair k => exact hout.2
  · cases hd

/-! ## The statements -/

/-- Settles O37: the three words reach the test of an exponent coprime to the totient, which completes the Keypair. -/
theorem keygenBuildsKeypair : Obligations.KeygenBuildsKeypair := by
  intro s v w x hwork hpres hv hw hpv hpw hne hx hcop
  rw [← candidateWord_totient] at hx hcop ⊢
  have hreach := reaches_tryExponent hv hw hpv hpw hne rfl rfl hx
  have hgp := genPrime_candidateWord hpv
  have hgq := genPrime_candidateWord hpw
  have hne' := candidateWord_ne hne
  have hpos := Nat.sub_pos_of_lt ((by decide : 1 < 17680).trans_le (hgp.totient_ge hgq hne'))
  have hmod := Nat.mod_lt x.toNat hpos
  obtain ⟨d, htry, hd⟩ := tryExponent_inverse hgp hgq hne' (Nat.succ_pos _) (Nat.add_lt_of_lt_sub hmod) hcop
  rw [htry] at hreach
  obtain ⟨t, ht, hend⟩ := keygen_completes_of_reaches (ws := [v, w, x]) hwork hpres hreach
  rw [candidateWord_keyModulus] at hend
  exact ⟨d, t, ht, hend, hd⟩

/-- Settles O38: the two budgets are one lemma, `q = p` and a common factor lead back to their draws. -/
theorem keygenRetries : Obligations.KeygenRetries := by
  intro s p q v attempt hnow
  refine ⟨fun hw hv hcomp => keygen_rejected_candidate getPrimeCall_keygenP hnow hw hv hcomp,
    fun hw hv hcomp => keygen_rejected_candidate (getPrimeCall_keygenQ p) hnow hw hv hcomp,
    fun hw hv hprime heq => ?again, fun hw hgp hgq hv hfactor => ?exponent⟩
  case again =>
    have ho := drawOutcome_getPrimeCall (getPrimeCall_keygenQ p) hv attempt
    have hp : word (128 + v.toNat % 128) = p := by rw [← heq, word_toNat]
    rw [← hnow, if_pos hprime, if_neg (not_not.mpr hp)] at ho
    exact exec_goes_on rfl (by rw [hw]; rfl) ho
  case exponent =>
    have ho := drawOutcome_keygenE hgp hgq hv
    have hgcd : gcd (word (v.toNat % ((p.toNat - 1) * (q.toNat - 1) - 1) + 1)) (keyTotient p q) ≠ 1#32 := by
      rwa [ne_eq, gcd_eq_one_iff, exponentWord_toNat hv, hgp.keyTotient_toNat hgq]
    rw [← hnow, tryExponent, if_neg hgcd] at ho
    exact exec_goes_on rfl (by rw [hw]; rfl) ho

/-- Settles O58: the clauses of `KeypairOk`, which `keypairOk_of_keygen` gives. -/
theorem keygenLeavesValidKeypair : Obligations.KeygenLeavesValidKeypair := by
  intro s t hinv hb hi ht hdone herr
  have hk := keypairOk_of_keygen hinv hb hi ht hdone herr
  obtain ⟨hp, hplow, hphigh⟩ := hk.p_prime
  obtain ⟨hq, hqlow, hqhigh⟩ := hk.q_prime
  exact ⟨hk.modulus, hk.distinct, hp, hplow, hphigh, hq, hqlow, hqhigh, hk.inverse, hk.coprime⟩

/-- Settles O59: the Keypair is a generated one, and its primes have the bounds of R174. -/
theorem keypairBounds : Obligations.KeypairBounds := by
  intro s t hinv hb hi ht hdone herr
  have hk := keypairOk_of_keygen hinv hb hi ht hdone herr
  obtain ⟨hplow, hphigh, hpmem⟩ := hk.p_prime.bounds
  obtain ⟨hqlow, hqhigh, hqmem⟩ := hk.q_prime.bounds
  obtain ⟨hnlow, hnhigh⟩ := hk.p_prime.product_bounds hk.q_prime hk.distinct 0
  obtain ⟨htlow, hthigh⟩ := hk.p_prime.product_bounds hk.q_prime hk.distinct 1
  simp only [Nat.sub_zero, ← hk.modulus] at hnlow hnhigh
  have he : t.kp.e.toNat < (t.kp.p.toNat - 1) * (t.kp.q.toNat - 1) := hk.e_high
  have hd : t.kp.d.toNat < (t.kp.p.toNat - 1) * (t.kp.q.toNat - 1) := hk.d_high
  exact ⟨hplow, hphigh, hpmem, hqlow, hqhigh, hqmem, hnlow, hnhigh, htlow, hthigh, hk.e_low, he, hk.d_low, hd,
    by omega, by omega, by omega, by omega, by omega⟩

end Sys2Proof.Machine

/-! PROOFS. The statements of 44_cipher.md, and RSA's correctness for the modulus of a generated Keypair. -/
namespace Sys2Proof.Machine

/-! ## What the two functions compute -/

section
variable {key modulus : Word} (hm : modulus ≠ 0#32)
include hm

/-- `encrypt` is the exact power modulo the modulus (44_cipher.md R185). -/
theorem encryptByte_toNat (byte : BitVec 8) :
    (encryptByte byte key modulus).toNat = byte.toNat ^ key.toNat % modulus.toNat := by
  rw [encryptByte, modPow_toNat _ _ hm, BitVec.toNat_setWidth_of_le (by decide)]

/-- `decrypt` is the low byte of the exact power modulo the modulus (R187). -/
theorem decryptCipher_toNat (cipher : Word) :
    (decryptCipher cipher key modulus).toNat = cipher.toNat ^ key.toNat % modulus.toNat % 256 := by
  rw [decryptCipher, BitVec.extractLsb'_toNat, Nat.shiftRight_zero, modPow_toNat _ _ hm,
    BitVec.toNat_setWidth_of_le (by decide)]

end

/-- The byte operand as a number: bits 31:8 of `OPA_LO` play no part (R186). -/
theorem opAByte_toNat (s : State) : (opAByte s).toNat = s.opaLo.toNat % 256 := by
  rw [opAByte, BitVec.extractLsb'_toNat, Nat.shiftRight_zero]

/-! ## The outcomes -/

section
variable {s : State}

theorem encryptResult_of_modulus_zero (hc : s.opc = 0#32) : encryptResult s = .raise .operandFault :=
  if_pos hc

theorem encryptResult_of_modulus_ne_zero (hc : s.opc ≠ 0#32) :
    encryptResult s = .res (word ((s.opaLo.toNat % 256) ^ s.opb.toNat % s.opc.toNat)) := by
  rw [← opAByte_toNat, ← encryptByte_toNat hc, word_toNat]
  exact if_neg hc

theorem decryptResult_of_modulus_zero (hc : s.opc = 0#32) : decryptResult s = .raise .operandFault :=
  if_pos hc

theorem decryptResult_of_modulus_ne_zero (hc : s.opc ≠ 0#32) :
    decryptResult s = .res (word (s.opaLo.toNat ^ s.opb.toNat % s.opc.toNat % 256)) := by
  rw [← decryptCipher_toNat hc, word, BitVec.ofNat_toNat]
  exact if_neg hc

end

/-! ## The correctness of RSA -/

/-- Fermat's little theorem for an exponent that is 1 modulo `p − 1`, and for every base, multiples of `p` among
them. -/
theorem pow_modEq_self_of_prime {p : Nat} (hp : Nat.Prime p) (a k : Nat) : a ^ ((p - 1) * k + 1) ≡ a [MOD p] := by
  have : Fact p.Prime := ⟨hp⟩
  rw [← ZMod.natCast_eq_natCast_iff, Nat.cast_pow]
  by_cases ha : (a : ZMod p) = 0
  · rw [ha, zero_pow (Nat.succ_ne_zero _)]
  · rw [pow_succ, pow_mul, ZMod.pow_card_sub_one_eq_one ha, one_pow, one_mul]

/-- The power with an exponent that is 1 modulo `(p − 1)(q − 1)` is the identity modulo `p * q` (R189): it is so
modulo each of the two primes. -/
theorem pow_modEq_self_of_two_primes {p q m : Nat} (hp : Nat.Prime p) (hq : Nat.Prime q) (hne : p ≠ q)
    (hm : m % ((p - 1) * (q - 1)) = 1) (a : Nat) : a ^ m ≡ a [MOD p * q] := by
  have hdiv := Nat.div_add_mod m ((p - 1) * (q - 1))
  rw [hm] at hdiv
  rw [← hdiv, ← Nat.modEq_and_modEq_iff_modEq_mul ((Nat.coprime_primes hp hq).mpr hne)]
  constructor
  · rw [mul_assoc]
    exact pow_modEq_self_of_prime hp a _
  · rw [mul_comm (p - 1), mul_assoc]
    exact pow_modEq_self_of_prime hq a _

section
variable {k : Keypair} (hk : KeypairOk k)
include hk

/-- Every byte is below the modulus of a generated Keypair. -/
theorem KeypairOk.byte_lt_modulus (b : BitVec 8) : b.toNat < k.n.toNat := by
  rw [hk.modulus]
  calc b.toNat < 128 * 128 := b.isLt.trans (by decide)
    _ ≤ k.p.toNat * k.q.toNat := Nat.mul_le_mul hk.p_prime.2.1 hk.q_prime.2.1

/-- The round trip for any two exponents that are inverse to each other modulo the totient, so for both orders of the
public and the private one (R189). -/
theorem KeypairOk.decrypt_encrypt {e d : Word} (hinv : e.toNat * d.toNat % totientNat k = 1) (b : BitVec 8) :
    decryptCipher (encryptByte b e k.n) d k.n = b := by
  have hlt := hk.byte_lt_modulus b
  have hn : k.n ≠ 0#32 := fun h => by simp [h] at hlt
  have hne : k.p.toNat ≠ k.q.toNat := fun h => hk.distinct (BitVec.eq_of_toNat_eq h)
  have hrsa : b.toNat ^ (e.toNat * d.toNat) % k.n.toNat = b.toNat % k.n.toNat := by
    rw [hk.modulus]
    exact pow_modEq_self_of_two_primes hk.p_prime.1 hk.q_prime.1 hne hinv b.toNat
  apply BitVec.eq_of_toNat_eq
  rw [decryptCipher_toNat hn, encryptByte_toNat hn, ← Nat.pow_mod, ← pow_mul, hrsa, Nat.mod_eq_of_lt hlt,
    Nat.mod_eq_of_lt b.isLt]

end

/-! ## The statements -/

/-- Settles O20: `mod_pow` is the exact power of the low byte of operand A. -/
theorem encryptComputesPower : Obligations.EncryptComputesPower := by
  refine ⟨decode_encode .encrypt, fun s => ⟨fun hc => ?fault, fun hc => ?power⟩⟩
  case fault => rw [exec, execEncrypt, encryptResult_of_modulus_zero hc, raise_res_eq]
  case power => rw [exec, execEncrypt, encryptResult_of_modulus_ne_zero hc, complete_res_eq]

/-- Settles O21: the low byte of `mod_pow`, zero-extended, is the power modulo the modulus, modulo 256. -/
theorem decryptComputesLowByte : Obligations.DecryptComputesLowByte := by
  refine ⟨decode_encode .decrypt, fun s => ⟨fun hc => ?fault, fun hc => ?power⟩⟩
  case fault => rw [exec, execDecrypt, decryptResult_of_modulus_zero hc, raise_res_eq]
  case power => rw [exec, execDecrypt, decryptResult_of_modulus_ne_zero hc, complete_res_eq]

/-- Settles O60: both orders are `KeypairOk.decrypt_encrypt`, the product of the exponents being symmetric; the
scenario's values are evaluated. -/
theorem cipherRoundTrip : Obligations.CipherRoundTrip := by
  refine ⟨fun k b hk => ⟨hk.decrypt_encrypt hk.inverse b, hk.decrypt_encrypt ?_ b⟩, ?_⟩
  · rw [mul_comm]
    exact hk.inverse
  · decide

end Sys2Proof.Machine

/-! PROOFS. The statements of 60_exceptions.md, and the facts they share about how a command ends. -/
namespace Sys2Proof.Machine

/-! ## A host write to `CMD` and to an operand register -/

section
variable {s : State}

theorem requestCommand_of_ignored (h : s.status.busy = true ∨ s.status.fatal = true) (w : Word) :
    requestCommand w s = dropWrite s :=
  if_pos (by simpa using h)

theorem requestCommand_of_accepted (hb : s.status.busy = false) (hf : s.status.fatal = false) (w : Word) :
    requestCommand w s = accept w s :=
  if_neg (by simp [hb, hf])

/-- A busy core drops an operand write (60_exceptions.md R201). -/
theorem writeOperand_of_busy (written : State) (hb : s.status.busy = true) :
    writeOperand written s = dropWrite s :=
  if_pos hb

/-- In the fatal state no host transaction changes what R211 keeps. -/
theorem hostTurn_of_fatal (x : HostTxn) (hf : s.status.fatal = true) :
    (hostTurn x s).status.fatal = true ∧ (hostTurn x s).status.busy = s.status.busy ∧
      (hostTurn x s).status.err = s.status.err ∧ (hostTurn x s).cmd = s.cmd := by
  cases x with
  | read idx => exact ⟨hf, rfl, rfl, rfl⟩
  | write idx v =>
    obtain ⟨-, -, hlive, -⟩ | ⟨h, -⟩ | ⟨h, -⟩ | ⟨h, -⟩ | ⟨-, h | h | h | h⟩ | h := hostWrite_cases idx v s
    case inl => cases hf.symm.trans hlive
    all_goals simp [hostTurn, h, hf]

end

/-! ## Illegal words -/

/-- Every legal command word is one of 1 to 12 (30_encoding.md R82). -/
theorem toNat_bounds_of_decode {w : Word} {i : Instr} (h : decode w = .ok i) : 1 ≤ w.toNat ∧ w.toNat ≤ 12 := by
  unfold decode at h
  split at h
  · next hz =>
    have hzero : w.toNat / 2 ^ 8 % 2 ^ 24 = 0 := by
      rw [← Nat.shiftRight_eq_div_pow, ← BitVec.extractLsb'_toNat]
      exact congrArg BitVec.toNat hz
    have hop : (opcodeField w).toNat = w.toNat % 256 := by
      rw [opcodeField, BitVec.extractLsb'_toNat, Nat.shiftRight_zero]
    have hlt := w.isLt
    rw [hop] at h
    unfold decodeOpcode at h
    split at h
    case h_13 => cases h
    all_goals omega
  · cases h

/-- An illegal word has no destination: only `STATUS` and the working state change (R202). -/
theorem coreStep_of_illegal {s : State} {x : DecodeError} (hb : s.status.busy = true) (hx : decode s.cmd = .error x) :
    coreStep s = .next { s with work := none, status := errStatus .illegalCommand s.status } := by
  have hcur : current s = .error x := hx
  simp [coreStep, hb, hcur, raiseError, zeroDest, settle, errStatus]

/-! ## Completions -/

section
variable {i : Instr} {s t : State}

/-- An error completion, whatever the destination of the command (R205). -/
theorem complete_raise_eq (i : Instr) (e : ErrKind) (s : State) :
    complete (destOf i) (.raise e) s = if i = .keygen then errKeys e s else errRes e s := by
  split
  · next hi => rw [hi, destOf, raise_keypair_eq]
  · next hi => rw [destOf_eq_res hi, raise_res_eq]

/-- `ERR` after a completion is the error raised, or `NONE` (R204, R205). -/
theorem complete_err_iff (d : Dest) (r : Result) (e : ErrKind) :
    (complete d r s).status.err = some e ↔ r = .raise e := by
  cases r <;> simp [complete, raiseError]

theorem progress_of_work_empty (hw : s.work = none) (i : Instr) : progress i s = firstProgress i s := by
  cases i <;> simp [progress, hw]

theorem progress_of_work (hd : draws i = true) {p : Progress} (hw : s.work = some p) : progress i s = p := by
  rw [progress_drawing i s hd, hw, Option.getD_some]

theorem progress_eq_firstProgress (hd : draws i = false) : progress i s = firstProgress i s := by
  obtain rfl | rfl | rfl | rfl | rfl | rfl := (draws_eq_false_iff i).mp hd <;> rfl

/-- A command that stands at its end completes with its outcome (R204, R205). -/
theorem exec_of_progress_finished {r : Result} (h : progress i s = .finished r) :
    exec i s = .next (complete (destOf i) r s) := by
  cases hd : draws i with
  | true => exact exec_finished i s r hd (progress_drawing i s hd ▸ h)
  | false =>
    obtain ⟨r', hfirst, hexec⟩ := exec_nonDrawing i s hd
    rw [progress_eq_firstProgress hd, hfirst] at h
    cases h
    rwa [destOf_eq_res (by rintro rfl; cases hd)]

/-- Only a command that stands at its end completes: `BUSY` falls in no other step of it. -/
theorem progress_finished_of_exec (hb : s.status.busy = true) (h : exec i s = .next t)
    (ht : t.status.busy = false) : ∃ r, progress i s = .finished r ∧ t = complete (destOf i) r s := by
  cases hp : progress i s with
  | finished r => exact ⟨r, rfl, Host.Outcome.next.inj (h.symm.trans (exec_of_progress_finished hp))⟩
  | draw pt =>
    obtain ⟨pt, -, -, rfl⟩ | ⟨r, hd, hr, -⟩ | ⟨r, hd, hr, -⟩ := exec_cases i s t h
    · cases hb.symm.trans ht
    · cases hp.symm.trans ((progress_drawing i s hd).trans hr)
    · cases hp.symm.trans ((progress_eq_firstProgress hd).trans hr)

/-- A step that completes a command with an error is the `raise` its pseudocode has come to. -/
theorem progress_raise_of_exec {e : ErrKind} (hb : s.status.busy = true) (h : exec i s = .next t)
    (ht : t.status.busy = false) (he : t.status.err = some e) :
    progress i s = .finished (.raise e) ∧ t = complete (destOf i) (.raise e) s := by
  obtain ⟨r, hp, rfl⟩ := progress_finished_of_exec hb h ht
  obtain rfl := (complete_err_iff _ r e).mp he
  exact ⟨hp, rfl⟩

/-- Only a drawing command has a working state that fits it. -/
theorem ProgressOk.draws_eq {p : Progress} (h : ProgressOk i s p) : draws i = true := by
  rw [draws_iff]
  cases p with
  | draw pt =>
    cases pt with
    | millerRabin n sh d round =>
      obtain ⟨⟨rfl, -⟩ | ⟨rfl, -⟩, -⟩ := (pointOk_millerRabin n sh d round).mp h <;> simp
    | _ =>
      simp only [ProgressOk, pointOk_uniform, pointOk_range, pointOk_getPrime, pointOk_keygenP, pointOk_keygenQ,
        pointOk_keygenE] at h
      simp [h.1]
  | finished r =>
    cases r with
    | res v => obtain ⟨rfl, -⟩ | ⟨rfl, -⟩ | ⟨rfl | rfl, -⟩ | ⟨rfl, -⟩ := h <;> simp
    | keypair k => simp [h.1]
    | raise e =>
      obtain ⟨rfl | rfl, hi⟩ := h
      · cases i <;> simp [mayRaise] at hi ⊢
      · exact (draws_iff i).mp hi

/-- At its end a command just accepted has the outcome it came to before its first draw, one in flight the outcome its
working state holds. -/
theorem progress_finished_cases {r : Result} (hw : WorkOk i s) (h : progress i s = .finished r) :
    (s.work = none ∧ firstProgress i s = .finished r) ∨ OutcomeOk i s r := by
  cases hwork : s.work with
  | none => exact .inl ⟨rfl, progress_of_work_empty hwork i ▸ h⟩
  | some p =>
    have hok := (workOk_of_some hwork).mp hw
    rw [progress_of_work hok.draws_eq hwork] at h
    subst h
    exact .inr hok

/-- The operand faults before the first draw are the table of R203. -/
theorem firstProgress_operandFault_iff (i : Instr) (s : State) :
    firstProgress i s = .finished (.raise .operandFault) ↔
      ((i = .modpow ∨ i = .encrypt ∨ i = .decrypt) ∧ s.opc = 0#32 ∨ i = .modinv ∧ s.opb = 0#32 ∨
      i = .uniform ∧ s.opaLo = 0#32 ∨ i = .range ∧ s.opb.toNat ≤ s.opaLo.toNat ∨
      i = .mrtest ∧ (s.opaLo.toNat < 5 ∨ s.opaLo.toNat % 2 = 0)) := by
  cases i with
  | keygen | getprime | gcd | sieve =>
    simp [firstProgress, startKeygen, startGetprime, gcdResult, sieveResult]
  | encrypt | decrypt | modpow =>
    by_cases hc : s.opc = 0#32 <;> simp [firstProgress, encryptResult, decryptResult, modpowResult, opC, hc]
  | modinv =>
    unfold firstProgress modinvResult
    (repeat' split) <;> simp_all [opB]
  | uniform => by_cases ha : s.opaLo = 0#32 <;> simp [firstProgress, startUniform, opA, ha]
  | range => simp [firstProgress, startRange, opA, opB, BitVec.le_def]
  | mrtest =>
    by_cases hn : s.opaLo.toNat < 5 ∨ s.opaLo.toNat % 2 = 0 <;>
      simp [firstProgress, startMrtest, mrStart, opA, hn]
  | isprime =>
    simp only [firstProgress, startIsprime]
    split <;> simp [mrStart]

end

/-! ## Draws to which no word comes -/

section
variable {i : Instr} {s : State} {pt : Point}

/-- With neither input the core waits (20_memory.md R68). -/
theorem drawOutcome_of_low {pins : EntPins} (hfail : pins.fail = false) (hvalid : pins.valid = false) :
    drawOutcome pt pins = .draw pt := by
  simp [drawOutcome, hfail, hvalid]

/-- While every handshake leaves the command in its draw, only the entropy port moves. -/
theorem execTimes_stays (hd : draws i = true) (hp : s.work.getD (firstProgress i s) = .draw pt)
    (hstay : ∀ j, drawOutcome pt (s.entropy.pinsAt j) = .draw pt) (k : Nat) :
    execTimes (k + 1) i s = .next { s with work := some (.draw pt), entropy := s.entropy.afterMany (k + 1) } := by
  induction k generalizing s with
  | zero => exact (execTimes_one i s).trans (exec_stays hd hp (hstay 0))
  | succ k ih =>
    have hone := (execTimes_one i s).trans (exec_stays hd hp (hstay 0))
    rw [Nat.add_comm, execTimes_add (k + 1) hone, ih rfl fun j => hstay (j + 1), Feed.afterMany_after,
      Nat.add_comm 1]

/-- A handshake that brings a command to its end, and the completion. -/
theorem execTimes_two_of_finished (hd : draws i = true) (hp : s.work.getD (firstProgress i s) = .draw pt)
    {r : Result} (ho : drawOutcome pt s.entropy.now = .finished r) :
    execTimes 2 i s = .next (complete (destOf i) r { s with entropy := s.entropy.after }) := by
  obtain ⟨t, hst, ht⟩ := exec_ends hd hp ho
  rw [execTimes_add 1 ((execTimes_one _ _).trans hst), execTimes_one, ht]

/-- A command that the words presented leave without an outcome draws, and stands in a draw when they are used. -/
theorem execTimes_of_commandOn_none {ws : List Word} (hwork : s.work = none)
    (hp : s.entropy.presents (ws.map presentWord)) (hnone : commandOn i s ws = none) :
    draws i = true ∧ ∃ pt w, w.getD (firstProgress i s) = .draw pt ∧
      execTimes ws.length i s = .next { s with work := w, entropy := s.entropy.afterMany ws.length } := by
  have h := commandOn_follows i s ws
  rw [hnone] at h
  obtain ⟨pt, h⟩ := h
  cases hd : draws i with
  | true => exact ⟨rfl, pt, execTimes_of_reaches hd (by rwa [hwork]) hp⟩
  | false =>
    obtain ⟨r, hr, -⟩ := exec_nonDrawing i s hd
    rw [hr] at h
    cases (Reaches.finished_iff.mp h).2

end

/-! ## The statements -/

/-- Settles O8: no word of R84 decodes, and the error completion of an illegal word has no destination. -/
theorem illegalCommandCompletes : Obligations.IllegalCommandCompletes := by
  intro s w hb hf hw
  have hwrite : hostWrite 0#4 w s = accept w s := requestCommand_of_accepted hb hf w
  rw [hwrite]
  refine ⟨rfl, rfl, ?_⟩
  cases hdec : decode w with
  | ok i =>
    have := toNat_bounds_of_decode hdec
    omega
  | error x =>
    rw [coreStep_of_illegal (s := accept w s) rfl hdec]
    simp [errStatus, accept]

/-- Settles O40: with both inputs low a handshake leaves the command in its draw. -/
theorem starvedCommandWaits : Obligations.StarvedCommandWaits := by
  refine ⟨fun i s pt hd hp hfail hvalid => exec_stays hd hp (drawOutcome_of_low hfail hvalid), ?_⟩
  intro i s ws hwork hp hnone hlow
  obtain ⟨hd, pt, w, hw, he⟩ := execTimes_of_commandOn_none hwork hp hnone
  have hdraw := (firstProgress_work_entropy i s w (s.entropy.afterMany ws.length)).symm ▸ hw
  refine ⟨pt, _, he, hw, fun k => ?_⟩
  rw [execTimes_add (k + 1) he, execTimes_stays hd hdraw (fun j => ?_), Feed.afterMany_add]
  show drawOutcome pt (EntropyPort.pinsAt (s.entropy.afterMany ws.length) j) = .draw pt
  rw [EntropyPort.pinsAt, Feed.afterMany_add]
  obtain ⟨hfail, hvalid⟩ := hlow (ws.length + j) (Nat.le_add_right _ _)
  exact drawOutcome_of_low hfail hvalid

/-- Settles O41: the handshake that sees `ent_fail` ends the draw, and the next step is the error completion. -/
theorem entropyFailureIsFatal : Obligations.EntropyFailureIsFatal := by
  intro i s ws pins hwork hp hfail hnone
  obtain ⟨hwords, hnow, -⟩ := (EntropyPort.presents_append _ _ _).mp hp
  rw [List.length_map] at hnow
  obtain ⟨hd, pt, w, hw, he⟩ := execTimes_of_commandOn_none hwork hwords hnone
  have hdraw := (firstProgress_work_entropy i s w (s.entropy.afterMany ws.length)).symm ▸ hw
  rw [execTimes_add 2 he, execTimes_two_of_finished hd hdraw (drawOutcome_fail pt _ (hnow ▸ hfail)),
    ← complete_raise_eq, Feed.after_afterMany]
  exact congrArg _ (complete_work _ _ { s with entropy := s.entropy.afterMany (ws.length + 1) } w)

/-- Settles O44: both directions are the table of the outcomes before the first draw; a working state that fits its
command holds no operand fault. -/
theorem operandFaultList : Obligations.OperandFaultList := by
  refine ⟨fun s hw => ?faults, fun i s t hinv hb hi h ht he => ?only⟩
  case faults =>
    have hfault {i : Instr} (hi : i ≠ .keygen) (h : firstProgress i s = .finished (.raise .operandFault)) :
        exec i s = .next (errRes .operandFault s) := by
      rw [exec_of_progress_finished ((progress_of_work_empty hw i).trans h), destOf_eq_res hi, raise_res_eq]
    simp only [firstProgress_operandFault_iff] at hfault
    refine ⟨fun hc => ⟨?_, ?_, ?_⟩, fun hb => ?_, fun ha => ?_, fun hle => ?_, fun hn => ?_⟩
    all_goals exact hfault (by decide) (by simp [*])
  case only =>
    obtain ⟨hp, -⟩ := progress_raise_of_exec hb h ht he
    obtain ⟨hw, hfirst⟩ | ⟨hout, -⟩ := progress_finished_cases (hinv.work_fits i hi) hp
    · exact ⟨hw, (firstProgress_operandFault_iff i s).mp hfirst⟩
    · simp at hout

/-- Settles O45: an error is raised before the first draw or in the working state, and both fit the command's row. -/
theorem errorsOfEachCommand : Obligations.ErrorsOfEachCommand := by
  intro i s t hinv hb hi h ht
  cases he : t.status.err with
  | none => exact .inl rfl
  | some e =>
    refine .inr ⟨e, rfl, ?_⟩
    obtain ⟨hp, -⟩ := progress_raise_of_exec hb h ht he
    obtain ⟨-, hfirst⟩ | ⟨-, hout⟩ := progress_finished_cases (hinv.work_fits i hi) hp
    · simpa using (firstProgress_finished hfirst).2
    · exact hout

/-- Settles O46: every error completion of a command is `complete` of a `raise`. -/
theorem errorCompletionZeroesDestinations : Obligations.ErrorCompletionZeroesDestinations := by
  refine ⟨fun i s e hd hw => ?raised, fun i s t e hb h ht he => ?completed, fun s x hb hx => ?illegal⟩
  case raised => rw [exec_of_progress_finished (progress_of_work hd hw), complete_raise_eq]
  case completed =>
    obtain ⟨-, rfl⟩ := progress_raise_of_exec hb h ht he
    exact complete_raise_eq i e s
  case illegal => exact coreStep_of_illegal hb hx

/-- Settles O47: in the fatal state no command is in flight, so only the host moves the core. -/
theorem fatalUntilReset : Obligations.FatalUntilReset := by
  intro s t hinv hf hreset h
  have herr := hinv.fatal_err.mp hf
  have hb : s.status.busy = false := by
    by_contra hbusy
    cases hf.symm.trans (hinv.fatal_of_busy (by simpa using hbusy))
  obtain ⟨x, hx, -⟩ | ⟨x, -, rfl⟩ | ⟨-, -, rfl⟩ | ⟨i, pt, -, hbusy, -⟩ | ⟨d, r, -, hbusy, -⟩ := step_outcomes h
  · exact absurd hx (hreset x)
  · obtain ⟨hfatal, hidle, hkeep, hcmd⟩ := hostTurn_of_fatal (s := takeTurn s) x hf
    obtain ⟨hres, hkp, -⟩ := hostTurn_keeps x (takeTurn s)
    exact ⟨hfatal, hidle.trans hb, hkeep.trans herr, hcmd, hres, hkp⟩
  · exact ⟨hf, hb, herr, rfl, rfl, rfl⟩
  · cases hb.symm.trans hbusy
  · cases hb.symm.trans hbusy

/-- Settles O7: a write to index 0 is `requestCommand`. -/
theorem commandWriteAcceptedOrIgnored : Obligations.CommandWriteAcceptedOrIgnored := by
  intro s w
  split
  · next h => exact requestCommand_of_ignored h w
  · next h =>
    obtain ⟨hb, hf⟩ := not_or.mp h
    exact requestCommand_of_accepted (by simpa using hb) (by simpa using hf) w

/-- Settles O9: a dropped write is `dropWrite`, the others are the writes of 20_memory.md R62. -/
theorem writesWhileBusyOrFatal : Obligations.WritesWhileBusyOrFatal := by
  intro s v
  refine ⟨fun hb idx hidx => ?busy, fun hb hf => ⟨?ignored, operandWriteStores s v hb⟩, ?acknowledged, rfl⟩
  case busy =>
    obtain rfl | rfl | rfl | rfl | rfl := hidx
    · exact requestCommand_of_ignored (.inl hb) v
    all_goals exact writeOperand_of_busy _ hb
  case ignored => exact requestCommand_of_ignored (.inr hf) v
  case acknowledged =>
    show acknowledge v s = _
    unfold acknowledge
    cases v.getLsbD 1 <;> cases v.getLsbD 3 <;> simp

/-- Settles O17: a completion sets `DONE` and keeps `IE`; an acknowledge with bit 1 and an accept clear `DONE`. -/
theorem interruptRaisedAndCleared : Obligations.InterruptRaisedAndCleared := by
  refine fun s => ⟨fun d r => ?completion, fun v hv => ?acknowledged, fun w hb hf => ?accepted⟩
  case completion => simp [irq, complete_ends, complete_keeps]
  case acknowledged =>
    show irq (acknowledge v s) = false
    simp [irq, hv]
  case accepted =>
    show irq (requestCommand w s) = false
    simp [requestCommand_of_accepted hb hf, irq]

/-- Settles O18: each clause names a command that stands at its end. -/
theorem finishedCommandCompletes : Obligations.FinishedCommandCompletes := by
  intro s
  have hres {i : Instr} {v : Word} (hi : i ≠ .keygen) (h : progress i s = .finished (.res v)) :
      exec i s = .next (okRes v s) := by
    rw [exec_of_progress_finished h, destOf_eq_res hi, complete_res_eq]
  refine ⟨fun i v hi hw => ?drawn, fun i v hi hw hfirst => ?undrawn, fun i v hi hfirst => ?nonDrawing,
    fun k hw => ?keygen⟩
  case drawn =>
    refine hres (by rintro rfl; simp at hi) (progress_of_work ((draws_iff i).mpr ?_) hw)
    tauto
  case undrawn => exact hres (by rintro rfl; simp at hi) ((progress_of_work_empty hw i).trans hfirst)
  case nonDrawing =>
    have hd := (draws_eq_false_iff i).mpr hi
    exact hres (by rintro rfl; cases hd) ((progress_eq_firstProgress hd).trans hfirst)
  case keygen => rw [exec_of_progress_finished (progress_of_work rfl hw), complete_keypair_eq]

end Sys2Proof.Machine

/-! PROOFS. The statements of 70_reset_and_hazards.md: the runs that never end (R237). -/
namespace Sys2Proof.Machine

/-- While every step leads back to the draw the command stands in, a run of any length moves the entropy port alone. -/
theorem execTimes_of_same_draw {i : Instr} {s : State} {pt : Point} (hw : s.work = some (.draw pt))
    (hstep : ∀ j, exec i { s with entropy := s.entropy.afterMany j } =
      .next { s with work := some (.draw pt), entropy := (s.entropy.afterMany j).after }) (k : Nat) :
    execTimes k i s = .next { s with entropy := s.entropy.afterMany k } := by
  induction k with
  | zero => rfl
  | succ k ih => rw [execTimes_add 1 ih, execTimes_one, hstep, ← hw, Feed.after_afterMany]

/-- Settles O42: no argument of `uniform` takes the largest word, so every handshake leads back to the draw. -/
theorem rejectedWordsForEver : Obligations.RejectedWordsForEver := by
  intro i s pt k hp hd hpins
  have hstay (j : Nat) : drawOutcome pt (s.entropy.pinsAt j) = .draw pt := by
    rw [hpins j, drawOutcome_reject pt _ (uniformAccepts_top pt.max)]
  exact execTimes_stays hd hp hstay k

/-- Settles O43: each step of either loop is a retry of `keygenRetries` back to the same draw; a word that gives
the candidate `p` gives a prime because `p` is one. -/
theorem keygenLoopsForEver : Obligations.KeygenLoopsForEver := by
  intro s k
  refine ⟨fun p hgp hw hpins => ?again, fun p q hgp hgq hw hpins => ?exponent⟩
  case again =>
    refine execTimes_of_same_draw hw (fun j => ?_) k
    obtain ⟨v, hnow, hv, hcand⟩ := hpins j
    obtain ⟨-, -, hagain, -⟩ := keygenRetries { s with entropy := s.entropy.afterMany j } p 0#32 v 1 hnow
    exact hagain hw hv (hcand ▸ hgp.1) hcand.symm
  case exponent =>
    refine execTimes_of_same_draw hw (fun j => ?_) k
    obtain ⟨v, hnow, hv, hfactor⟩ := hpins j
    obtain ⟨-, -, -, hexponent⟩ := keygenRetries { s with entropy := s.entropy.afterMany j } p q v 1 hnow
    exact hexponent hw hgp hgq hv hfactor

end Sys2Proof.Machine

/-! PROOFS. The statements of 30_encoding.md: `decode` as a function of the word's value, and its two outcomes. -/
namespace Sys2Proof.Machine

/-! ## The decoder on the value of a word -/

/-- Bits 31:8 are 0 exactly in the words below 256 (30_encoding.md R80). -/
theorem zeroField_eq_zero_iff (w : Word) : zeroField w = 0#24 ↔ w.toNat < 256 := by
  have hlt := w.isLt
  rw [← BitVec.toNat_inj, zeroField, BitVec.extractLsb'_toNat, Nat.shiftRight_eq_div_pow, BitVec.toNat_ofNat]
  omega

/-- Decoding reads the opcode map at the word's value, if bits 31:8 are 0 (R80). -/
theorem decode_eq (w : Word) :
    decode w = if w.toNat < 256 then decodeOpcode w.toNat else .error .zeroField := by
  simp only [decode, zeroField_eq_zero_iff]
  split
  · next hlt =>
    rw [opcodeField, BitVec.extractLsb'_toNat, Nat.shiftRight_zero, Nat.mod_eq_of_lt hlt]
  · rfl

/-- The opcode map gives a command at no opcode but its own (R82). -/
theorem eq_opcode_of_decodeOpcode {n : Nat} {i : Instr} (h : decodeOpcode n = .ok i) : n = (opcode i).toNat := by
  unfold decodeOpcode at h
  split at h <;> cases h <;> rfl

/-- The opcodes the map leaves out are 0x00 and 0x0D upwards (R84). -/
theorem decodeOpcode_error_iff (n : Nat) : (∃ e, decodeOpcode n = .error e) ↔ n = 0 ∨ 0x0D ≤ n := by
  unfold decodeOpcode
  split
  case h_13 =>
    simp only [imp_false] at *
    exact iff_of_true ⟨_, rfl⟩ (by omega)
  all_goals simp

/-- The value of a word that decodes to a command is the command's opcode. -/
theorem toNat_eq_opcode_of_decode {w : Word} {i : Instr} (h : decode w = .ok i) : w.toNat = (opcode i).toNat := by
  rw [decode_eq] at h
  split at h
  · exact eq_opcode_of_decodeOpcode h
  · cases h

/-! ## The statements -/

/-- Settles O1: a word that decodes to `i` and the command word of `i` both have the value of the opcode of `i`. -/
theorem decodeEncodeAgree : Obligations.DecodeEncodeAgree := by
  refine fun w i => ⟨fun h => ?unique, fun h => ?roundTrip⟩
  case unique =>
    exact BitVec.eq_of_toNat_eq
      ((toNat_eq_opcode_of_decode h).trans (toNat_eq_opcode_of_decode (decode_encode i)).symm)
  case roundTrip => rw [h, decode_encode]

/-- Settles O3: a word of 256 or more has a bit of 31:8 set, a smaller one is its own opcode. -/
theorem illegalWordsRejected : Obligations.IllegalWordsRejected := by
  intro w
  rw [decode_eq]
  split
  · next hlt =>
    rw [decodeOpcode_error_iff, Nat.mod_eq_of_lt hlt]
    omega
  · next hge => exact iff_of_true ⟨_, rfl⟩ (.inl (Nat.le_of_not_lt hge))

/-- Settles O2: the twelve legal words are the command words, and the other three are evaluated. -/
theorem opcodeMapDecodes : Obligations.OpcodeMapDecodes :=
  ⟨decode_encode .keygen, decode_encode .encrypt, decode_encode .decrypt, decode_encode .modpow,
    decode_encode .gcd, decode_encode .modinv, decode_encode .isprime, decode_encode .sieve,
    decode_encode .mrtest, decode_encode .getprime, decode_encode .uniform, decode_encode .range,
    rfl, rfl, rfl⟩

end Sys2Proof.Machine

/-! PROOFS. The statements of 70_reset_and_hazards.md: a reset edge during a command (R232). -/
namespace Sys2Proof.Machine

/-- After a reset edge every index of the window reads 0, as in the reset state (70_reset_and_hazards.md R231). -/
theorem hostRead_applyReset (idx : RegIdx) (s : State) : hostRead idx (applyReset s) = 0#32 := by
  obtain ⟨hzero, -⟩ := resetStateReadsZero
  exact hzero idx

/-- Settles O16: the step is `applyReset`, which keeps the environment's two feeds and nothing else. -/
theorem resetAbandonsCommand : Obligations.ResetAbandonsCommand :=
  fun s _ hturn =>
    ⟨applyReset (takeTurn s), step_of_reset hturn, fun idx => hostRead_applyReset idx _, rfl, rfl, rfl, rfl, rfl⟩

end Sys2Proof.Machine
